-- ==== Sys2Proof/Word.lean ====
section
/-! DEFINITION. The widths of GLXT's data: bytes, command words, pixels. -/

namespace Sys2Proof

/-- An 8-bit channel intensity or wire byte (00_scope.md R8, `CH_BITS`). -/
abbrev Byte := BitVec 8

/-- A 32-bit command word (30_encoding.md R70). -/
abbrev Word := BitVec 32

/-- One pixel: three 8-bit channels, red, green and blue (10_state.md R20). -/
structure Pixel where
  r : Byte
  g : Byte
  b : Byte
  deriving DecidableEq, Repr, Inhabited

/-- The colour (0, 0, 0) (10_state.md R35). -/
def black : Pixel := ⟨0, 0, 0⟩

/-- The indices of the pixel buffer, 0..41, in order (20_memory.md R50). -/
def indices : List (Fin 42) :=
  [0, 1, 2, 3, 4, 5, 6, 7, 8, 9, 10, 11, 12, 13, 14, 15, 16, 17, 18, 19, 20]
    ++ [21, 22, 23, 24, 25, 26, 27, 28, 29, 30, 31, 32, 33, 34, 35, 36, 37, 38, 39, 40, 41]

/-- The buffer that holds `f i` at each index `i`. -/
def bufferOf (f : Fin 42 → Pixel) : Vector Pixel 42 := ⟨⟨indices.map f⟩, by simp [indices]⟩

end Sys2Proof
end

