-- ==== Sys2Proof/Config.lean ====
section
/-! DEFINITION. What the spec fixes for every GLXT (00_scope.md R8), the parameters it leaves open (R9), and the
free values of 93_implementation_defined.md section 2. An `opaque` constant has no body: nothing in Lean can
compute it or prove a value of it. -/

namespace Sys2Proof.Config

/-- `N`, the buffer length. The types below write the literal 42 (00_scope.md R8, R11). -/
def pixelCount : Nat := 42

/-- `H`, the length of an arm. The formulas below write the literal 21 (00_scope.md R8). -/
def armLength : Nat := pixelCount / 2

/-- `ARM_CHIPS`, the chips of one arm (00_scope.md R8). -/
def armChips : Nat := 4

/-- `PX_PER_ARM_CHIP`, the pixels of one arm chip (00_scope.md R8; 90_conflicts.md C1). -/
def pixelsPerArmChip : Nat := 5

/-- `END_CAP_PX`, the pixel slots of the end-cap chip (00_scope.md R8; 90_conflicts.md C3). -/
def endCapPixels : Nat := 2

/-- `N_CHIPS`, the number of transmit slots (00_scope.md R8). -/
def chipCount : Nat := 9

/-- `FRAME_BITS`, the bit-times of one wire frame (00_scope.md R8). -/
def frameBits : Nat := 11

/-- `FRAME_BYTES`, the wire frames of one TX: `N*3 + N_CHIPS` (00_scope.md R8). -/
def frameBytes : Nat := pixelCount * 3 + chipCount

/-- OPEN parameter `CHIP_ADDR[s]`: any nine bytes, equal or not (00_scope.md R9; 10_state.md R27; D13). Log 3. -/
opaque chipAddr : Fin 9 → Byte

/-- OPEN: `BIT_PERIOD` less one. Log 4. -/
opaque bitPeriodLessOne : Nat

/-- OPEN parameter `BIT_PERIOD`, an integer >= 1, in clock cycles (00_scope.md R9; D16). Log 4. -/
def bitPeriod : Nat := bitPeriodLessOne + 1

/-- OPEN: `EXEC_LATENCY` less one, of a word accepted with ERR = 1 (`true`) or ERR = 0 (`false`). Log 4. -/
opaque execLatencyLessOne : Bool → Word → Nat

/-- OPEN parameter `EXEC_LATENCY(cmd)`, an integer >= 1, in clock cycles, for every command but a running TX, a
discarded one included (00_scope.md R9; 70_reset_and_hazards.md R239; D27). Log 4. -/
def execLatency (discarded : Bool) (w : Word) : Nat := execLatencyLessOne discarded w + 1

/-- OPEN parameter `TX_START_LATENCY`, an integer >= 0 (00_scope.md R9; D27). Log 4. -/
opaque txStartLatency : Nat

/-- OPEN parameter `RESET_INIT_CYCLES`, an integer >= 0 (00_scope.md R9; D22). Log 4. -/
opaque resetInitCycles : Nat

/-- FREE VALUE: the buffer while INIT runs (10_state.md R35, "cannot be observed"), by draw number. Log 6. -/
opaque freeInitPixel : Nat → Fin 42 → Pixel

/-- FREE VALUE: `seq_slot` after reset and outside TX (10_state.md R31, R35), by draw number. Log 5. -/
opaque freeSlot : Nat → Fin 9

/-- FREE VALUE: `seq_item` after reset and outside TX, by draw number. Log 5. -/
opaque freeItem : Nat → Fin 16

/-- FREE VALUE: `shreg` after reset and outside TX, by draw number. Log 5. -/
opaque freeShreg : Nat → BitVec 11

/-- FREE VALUE: `bit_idx` after reset and outside TX, by draw number. Log 5. -/
opaque freeBitIdx : Nat → Fin 11

/-- FREE VALUE: `baud_cnt` after reset and outside TX, by draw number; taken modulo `BIT_PERIOD`, its range. Log 5. -/
opaque freeBaudCnt : Nat → Nat

/-- FREE VALUE: does the `rdata` port show the new value (`true`) or the old one before `cmd_ready` returns
(70_reset_and_hazards.md R236), by draw number and cycles of EXEC left, so that each cycle has its own. Log 7. -/
opaque freeRdataIsNew : Nat → Nat → Bool

/-- FREE VALUE: how many cycles before `cmd_ready` returns the `status` port begins to show a command's error
(70_reset_and_hazards.md R236), by draw number: 0, or more cycles than EXEC has, included. One number a command, so
that an error once shown does not fall (10_state.md R24). Log 7. -/
opaque freeStatusLead : Nat → Nat

/-- FREE VALUE: how many frames a TX cut by reset has sent (70_reset_and_hazards.md R232; D23), by draw number; taken
modulo 136, so that every length 0..135 is possible and no other. Log 9. -/
opaque freeCutLength : Nat → Nat

end Sys2Proof.Config
end

