-- ==== Sys2Proof/Syntax.lean ====
section
/-! DEFINITION. The nine commands of 30_encoding.md, each with the fields its encoding carries. -/

namespace Sys2Proof

/-- `MM`: 0 Mirrored, 1 Full (30_encoding.md R73). Not state (10_state.md R23). -/
inductive MappingMode where
  | mirrored
  | full
  deriving DecidableEq, Repr

/-- `DIR`: 0 Positive, 1 Negative (30_encoding.md R73). -/
inductive Direction where
  | positive
  | negative
  deriving DecidableEq, Repr

/-- `FM`: 0 Modular, 1 Constrained (30_encoding.md R73). -/
inductive FadeMode where
  | modular
  | constrained
  deriving DecidableEq, Repr

/-- A colour channel of a pixel (00_scope.md R13). -/
inductive Channel where
  | red
  | green
  | blue
  deriving DecidableEq, Repr

/-- The four values of the 2-bit field `CH`; the fourth names no channel and raises BAD_CHANNEL (30_encoding.md R73).
It is part of the encoding, so it is part of the instruction. Log 12. -/
inductive ChannelField where
  | red
  | green
  | blue
  | noChannel
  deriving DecidableEq, Repr

/-- The error causes that a command can raise (60_exceptions.md R200, codes 1 to 3). -/
inductive ErrorCode where
  | illegalEncoding
  | indexRange
  | badChannel
  deriving DecidableEq, Repr

/-- The commands, one constructor per row of the opcode map (30_encoding.md R76). Index fields are the 7 bits `IDX`
(0..127, R74), `amount` the 9 bits `AMT`. -/
inductive Instr where
  /-- WRPIX: write one full pixel by index (40_pixel_buffer.md R101). -/
  | wrpix (idx : BitVec 7) (colour : Pixel)
  /-- NOP (40_pixel_buffer.md R100). -/
  | nop
  /-- FILL: set every pixel to one colour (41_transform.md R120). -/
  | fill (colour : Pixel)
  /-- FADE: add a signed amount to one channel of every pixel (41_transform.md R121). -/
  | fade (ch : ChannelField) (amount : BitVec 9) (fm : FadeMode)
  /-- SHIFT: rotate pixel values by one position (41_transform.md R122). -/
  | shift (dir : Direction) (mm : MappingMode)
  /-- TX: transmit one full frame (42_transmit.md R158). -/
  | tx (mm : MappingMode)
  /-- WRCH: write one channel of one pixel (40_pixel_buffer.md R102). -/
  | wrch (idx : BitVec 7) (ch : ChannelField) (value : Byte)
  /-- RDPIX: read one full pixel into RDATA (40_pixel_buffer.md R103). -/
  | rdpix (idx : BitVec 7)
  /-- RDCH: read one channel of one pixel into RDATA (40_pixel_buffer.md R104). -/
  | rdch (idx : BitVec 7) (ch : ChannelField)
  deriving DecidableEq, Repr

end Sys2Proof
end

