-- ==== Sys2Proof/Machine/State.lean ====
section
/-! DEFINITION. The state of GLXT as plain data (10_state.md), the reasons a step can stop, and the state after
reset. -/

namespace Sys2Proof.Machine

/-- Why the machine stops with a fault. GLXT's own errors are no faults here: the hardware goes on after one
(60_exceptions.md R202), and so does the model. -/
inductive Fault where
  /-- Raised by `step` in a state whose ERR_CODE holds 4..15, which the hardware never produces: "A model that finds
  one has broken an invariant: stuck" (93_implementation_defined.md section 3). SAFE: the model stops where the spec
  makes no claim, and no legal state reaches it. Log 13. -/
  | reservedErrCode
  deriving DecidableEq, Repr

/-- Why the machine has no meaning for an instruction. -/
inductive Refusal where
  /-- Raised by an arm of `exec` whose instruction has no meaning yet. SAFE. No arm raises it now: every row of the
  opcode table has its meaning. -/
  | notModelled (mnemonic : String)
  deriving DecidableEq, Repr

/-- The Engine's four states (10_state.md R29). -/
inductive EngineState where
  | init
  | idle
  | exec
  | tx
  deriving DecidableEq, Repr

/-- The hidden transmit state (10_state.md R31): the current slot, the position within it (item 0 is the address
byte), the wire frame being sent, the bit of it that is on the line, and the clock cycles spent in that bit-time. -/
structure Sequencer where
  slot : Fin 9
  item : Fin 16
  shreg : BitVec 11
  bitIdx : Fin 11
  baudCnt : Nat
  deriving DecidableEq, Repr

/-- One wire frame of the trace `W`: the address-select bit and the byte (10_state.md R34). -/
structure WireFrame where
  sel : Bool
  byte : Byte
  deriving DecidableEq, Repr

/-- The input ports at one rising clock edge (10_state.md R32). -/
structure Pins where
  rst : Bool
  cmdValid : Bool
  cmdData : Word
  deriving DecidableEq, Repr

/-- One thing the host does next. The MODEL's own: the spec's ports, driven from a list (log 1). -/
inductive HostAction where
  /-- One rising clock edge with these levels on the input ports (10_state.md R32). -/
  | edge (p : Pins)
  /-- One command transaction: the word is offered until it is accepted, and runs to completion (00_scope.md R7). -/
  | command (w : Word)
  /-- The word is offered until it is accepted, and `rst` rises before the command completes
  (70_reset_and_hazards.md R232). -/
  | cutCommand (w : Word)
  deriving DecidableEq, Repr

/-- Everything the spec gives GLXT, and four fields of the model's own (INVENTORY.md, State). -/
structure State where
  /-- The pixel buffer (10_state.md R20). Log 2. -/
  pb : Vector Pixel 42
  /-- RDATA (10_state.md R25). -/
  rdata : BitVec 24
  /-- STATUS.ERR (10_state.md R24). -/
  err : Bool
  /-- STATUS.ERR_CODE (10_state.md R24; 60_exceptions.md R200). -/
  errCode : BitVec 4
  /-- The Engine's state (10_state.md R29); BUSY, TXACT and `cmd_ready` are views of it. -/
  engine : EngineState
  /-- The hidden transmit state (10_state.md R31). -/
  seq : Sequencer
  /-- The wire trace `W` (10_state.md R34). -/
  wire : List WireFrame
  /-- The command word in progress (10_state.md R33); in IDLE the last one that clock edges accepted, which nothing reads.
  Log 15. -/
  cmd : Word
  /-- Cycles left before the Engine leaves INIT or EXEC, or before TX drives its first start bit (10_state.md R30).
  Log 15. -/
  timer : Nat
  /-- The MODEL's own: how many free values have been drawn. Log 14. -/
  draws : Nat
  /-- The MODEL's own: what the host does next, first action first. Log 1. -/
  inputs : List HostAction
  deriving DecidableEq, Repr

/-- What a claim may speak of (10_state.md R36): the buffer, STATUS, RDATA, `cmd_ready` and the wire trace. -/
structure Observable where
  pb : Vector Pixel 42
  status : BitVec 16
  rdata : BitVec 24
  cmdReady : Bool
  wire : List WireFrame
  deriving DecidableEq, Repr

/-- The machine right after a reset edge (10_state.md R35; 70_reset_and_hazards.md R230): in INIT, every value as the
table gives it. The buffer is shown already black (log 6); the hidden transmit state is zero by DESIGN CHOICE
(log 5), as are the model's own fields (logs 1, 14, 15). -/
def State.reset : State where
  pb := bufferOf fun _ => black
  rdata := 0
  err := false
  errCode := 0
  engine := .init
  seq := ⟨0, 0, 0, 0, 0⟩
  wire := []
  cmd := 0
  timer := Config.resetInitCycles
  draws := 0
  inputs := []

end Sys2Proof.Machine
end

