-- ==== Sys2Proof/Machine/Flags.lean ====
section
/-! DEFINITION. STATUS and the views of the state that the host can observe. GLXT has no condition codes or other
flags: no command records a carry, a clamp or a wrap (10_state.md R26). -/

namespace Sys2Proof.Machine

/-- `cmd_ready`: 1 exactly when the Engine is IDLE (10_state.md R32). -/
def State.cmdReady (s : State) : Bool := s.engine == .idle

/-- STATUS.BUSY: `NOT cmd_ready` (10_state.md R24). -/
def State.busy (s : State) : Bool := !s.cmdReady

/-- STATUS.TXACT: 1 while the Engine is in TX (10_state.md R24). -/
def State.txact (s : State) : Bool := s.engine == .tx

/-- A STATUS word from its fields: BUSY in bit 0, ERR in 1, TXACT in 2, ERR_CODE in 7:4, every other bit hardwired 0
(10_state.md R24). -/
def statusWord (busy err txact : Bool) (errCode : BitVec 4) : BitVec 16 :=
  (BitVec.ofBool busy).setWidth 16 ||| (BitVec.ofBool err).setWidth 16 <<< 1
    ||| (BitVec.ofBool txact).setWidth 16 <<< 2 ||| errCode.setWidth 16 <<< 4

/-- STATUS (10_state.md R24). -/
def State.status (s : State) : BitVec 16 := statusWord s.busy s.err s.txact s.errCode

/-- The `ERR_CODE` of an error (60_exceptions.md R200). -/
def errorBits : ErrorCode → BitVec 4
  | .illegalEncoding => 1
  | .indexRange => 2
  | .badChannel => 3

/-- The observable state (10_state.md R36). -/
def State.observe (s : State) : Observable := ⟨s.pb, s.status, s.rdata, s.cmdReady, s.wire⟩

end Sys2Proof.Machine
end

