-- ==== Sys2Proof/WellFormed.lean ====
section
/-! DEFINITION. Which instructions pass the operand checks of 30_encoding.md R75. An instruction that fails one is
still an encoding of its row; running it raises the error the check names. -/

namespace Sys2Proof

/-- The instruction's channel field, if it has one, names a channel (30_encoding.md R75, second check). -/
def Instr.channelOk : Instr → Bool
  | .wrpix _ _ => true
  | .nop => true
  | .fill _ => true
  | .fade ch _ _ => ch != .noChannel
  | .shift _ _ => true
  | .tx _ => true
  | .wrch _ ch _ => ch != .noChannel
  | .rdpix _ => true
  | .rdch _ ch => ch != .noChannel

/-- The instruction's index field, if it has one, is below `N` = 42 (30_encoding.md R75, third check). -/
def Instr.indexOk : Instr → Bool
  | .wrpix idx _ => idx.toNat < 42
  | .nop => true
  | .fill _ => true
  | .fade _ _ _ => true
  | .shift _ _ => true
  | .tx _ => true
  | .wrch idx _ _ => idx.toNat < 42
  | .rdpix idx => idx.toNat < 42
  | .rdch idx _ => idx.toNat < 42

/-- Both operand checks pass. -/
def Instr.wellFormed (i : Instr) : Bool := i.channelOk && i.indexOk

end Sys2Proof
end

