-- ==== Sys2Proof/Decode.lean ====
section
/-! DEFINITION. From a command word to an instruction (30_encoding.md R70 to R78), and back. -/

namespace Sys2Proof

/-! ### Bits -/

/-- `cmd[lo + n - 1 : lo]` (00_scope.md R12). -/
def bits (w : Word) (lo n : Nat) : BitVec n := w.extractLsb' lo n

/-- A field's bits at their place in a command word, its lowest bit at `lo`. -/
def place {n : Nat} (lo : Nat) (v : BitVec n) : Word := v.setWidth 32 <<< lo

/-! ### Selector fields (30_encoding.md R73) -/

/-- `MM` from its bit. -/
def mappingModeOfBit (m : Bool) : MappingMode := if m then .full else .mirrored

/-- `DIR` from its bit. -/
def directionOfBit (d : Bool) : Direction := if d then .negative else .positive

/-- `FM` from its bit. -/
def fadeModeOfBit (f : Bool) : FadeMode := if f then .constrained else .modular

/-- `CH` from its two bits. -/
def channelFieldOfBits (c : BitVec 2) : ChannelField :=
  match c.toNat with
  | 0 => .red
  | 1 => .green
  | 2 => .blue
  | _ => .noChannel

/-- The bit of an `MM` value. -/
def mappingModeBits : MappingMode → BitVec 1
  | .mirrored => 0
  | .full => 1

/-- The bit of a `DIR` value. -/
def directionBits : Direction → BitVec 1
  | .positive => 0
  | .negative => 1

/-- The bit of an `FM` value. -/
def fadeModeBits : FadeMode → BitVec 1
  | .modular => 0
  | .constrained => 1

/-- The two bits of a `CH` value. -/
def channelFieldBits : ChannelField → BitVec 2
  | .red => 0
  | .green => 1
  | .blue => 2
  | .noChannel => 3

/-! ### The opcode map -/

/-- The rows of the opcode map, without their operands (30_encoding.md R76). -/
inductive Opcode where
  | wrpix | nop | fill | fade | shift | tx | wrch | rdpix | rdch
  deriving DecidableEq, Repr

/-- The `MATCH` column of 30_encoding.md R76. -/
def opcodeMatch : Opcode → Word
  | .wrpix => 0x80000000
  | .nop   => 0x00000000
  | .fill  => 0x10000000
  | .fade  => 0x20000000
  | .shift => 0x30000000
  | .tx    => 0x40000000
  | .wrch  => 0x50000000
  | .rdpix => 0x60000000
  | .rdch  => 0x70000000

/-- The `MASK` column of 30_encoding.md R76. -/
def opcodeMask : Opcode → Word
  | .wrpix => 0x80000000
  | .nop   => 0xFFFFFFFF
  | .fill  => 0xFF000000
  | .fade  => 0xFFFECE00
  | .shift => 0xFFFFFFEE
  | .tx    => 0xFFFFFFEF
  | .wrch  => 0xFF80CF00
  | .rdpix => 0xFF80FFFF
  | .rdch  => 0xFF80CFFF

/-- A word is command X exactly when `(cmd AND MASK) == MATCH` for X's row (30_encoding.md R76). -/
def matchesRow (op : Opcode) (w : Word) : Bool := w &&& opcodeMask op == opcodeMatch op

/-- The row an instruction belongs to. -/
def opcodeOf : Instr → Opcode
  | .wrpix _ _ => .wrpix
  | .nop => .nop
  | .fill _ => .fill
  | .fade _ _ _ => .fade
  | .shift _ _ => .shift
  | .tx _ => .tx
  | .wrch _ _ _ => .wrch
  | .rdpix _ => .rdpix
  | .rdch _ _ => .rdch

/-! ### Decoding -/

/-- The candidate row: Format P when `cmd[31]` is 1, else by `cmd[30:28]` (30_encoding.md R70, R75). -/
def candidate (w : Word) : Opcode :=
  if w.getLsbD 31 then .wrpix
  else
    match (bits w 28 3).toNat with
    | 0 => .nop
    | 1 => .fill
    | 2 => .fade
    | 3 => .shift
    | 4 => .tx
    | 5 => .wrch
    | 6 => .rdpix
    | _ => .rdch

/-- The colour triple of Format P and FILL: R in 23:16, G in 15:8, B in 7:0 (30_encoding.md R71, R72; 20_memory.md
R54(a)). -/
def colourField (w : Word) : Pixel := ⟨bits w 16 8, bits w 8 8, bits w 0 8⟩

/-- The row's operands, straight from their bits (30_encoding.md R71, R72, R74). -/
def operandsOf (op : Opcode) (w : Word) : Instr :=
  match op with
  | .wrpix => .wrpix (bits w 24 7) (colourField w)
  | .nop   => .nop
  | .fill  => .fill (colourField w)
  | .fade  => .fade (channelFieldOfBits (bits w 12 2)) (bits w 0 9) (fadeModeOfBit (w.getLsbD 16))
  | .shift => .shift (directionOfBit (w.getLsbD 0)) (mappingModeOfBit (w.getLsbD 4))
  | .tx    => .tx (mappingModeOfBit (w.getLsbD 4))
  | .wrch  => .wrch (bits w 16 7) (channelFieldOfBits (bits w 12 2)) (bits w 0 8)
  | .rdpix => .rdpix (bits w 16 7)
  | .rdch  => .rdch (bits w 16 7) (channelFieldOfBits (bits w 12 2))

/-- Decoding, total on every word: the instruction of the row the word matches, or ILLEGAL_ENCODING (30_encoding.md
R75, first check; R77). -/
def decode (w : Word) : Except ErrorCode Instr :=
  if matchesRow (candidate w) w then .ok (operandsOf (candidate w) w) else .error .illegalEncoding

/-- The whole of the spec's `decode(cmd)`, its three checks in order: the row, the channel field, the index
(30_encoding.md R75; 60_exceptions.md R204). -/
def decodeChecked (w : Word) : Except ErrorCode Instr :=
  match decode w with
  | .error e => .error e
  | .ok i =>
    if !i.channelOk then .error .badChannel
    else if !i.indexOk then .error .indexRange
    else .ok i

/-- The decoder read on the opcode table's own numbering of bits; GLXT's instructions are one 32-bit word
(30_encoding.md R70). -/
def decodeTableWord (nbits w : Nat) : Option Instr :=
  match decode (BitVec.ofNat 32 (w % 2 ^ nbits)) with
  | .ok i => some i
  | .error _ => none

/-! ### Encoding -/

/-- A colour at its place in a word (30_encoding.md R71, R72). -/
def placeColour (p : Pixel) : Word := place 16 p.r ||| place 8 p.g ||| place 0 p.b

/-- The word of an instruction, from the layouts of 30_encoding.md R71 and R72. Reserved bits are 0. -/
def encode : Instr → Word
  | .wrpix idx colour => 0x80000000 ||| place 24 idx ||| placeColour colour
  | .nop => 0x00000000
  | .fill colour => 0x10000000 ||| placeColour colour
  | .fade ch amount fm =>
    0x20000000 ||| place 16 (fadeModeBits fm) ||| place 12 (channelFieldBits ch) ||| place 0 amount
  | .shift dir mm => 0x30000000 ||| place 4 (mappingModeBits mm) ||| place 0 (directionBits dir)
  | .tx mm => 0x40000000 ||| place 4 (mappingModeBits mm)
  | .wrch idx ch value =>
    0x50000000 ||| place 16 idx ||| place 12 (channelFieldBits ch) ||| place 0 value
  | .rdpix idx => 0x60000000 ||| place 16 idx
  | .rdch idx ch => 0x70000000 ||| place 16 idx ||| place 12 (channelFieldBits ch)

end Sys2Proof
end

