-- ==== Sys2Proof/Machine/Operands.lean ====
section
/-! DEFINITION. What the operand fields of a command stand for (30_encoding.md R73, R74). -/

namespace Sys2Proof.Machine

/-- The channel a `CH` field names, if it names one (30_encoding.md R73). -/
def channelOf : ChannelField → Option Channel
  | .red => some .red
  | .green => some .green
  | .blue => some .blue
  | .noChannel => none

/-- The buffer index an `IDX` field names, if it is below `N` (20_memory.md R51; 30_encoding.md R74). -/
def indexOf (idx : BitVec 7) : Option (Fin 42) :=
  if h : idx.toNat < 42 then some ⟨idx.toNat, h⟩ else none

/-- A colour packed as `(R, G, B)` from the high bits down: red in 23:16, green in 15:8, blue in 7:0 (20_memory.md
R54(a); 10_state.md R25). -/
def packColour (p : Pixel) : BitVec 24 :=
  p.r.setWidth 24 <<< 16 ||| p.g.setWidth 24 <<< 8 ||| p.b.setWidth 24

/-- The signed number an `AMT` field stands for, -256..+255 (30_encoding.md R74). -/
def amountOf (amount : BitVec 9) : Int := amount.toInt

end Sys2Proof.Machine
end

