-- ==== Sys2Proof/Machine/Ops.lean ====
section
/-! DEFINITION. The operations the meanings share: pixels and channels of the buffer (00_scope.md R13), raising an
error (60_exceptions.md R202), discarding in the fault state (R203), reset (70_reset_and_hazards.md R230), and the
free values. -/

namespace Sys2Proof.Machine

/-- What the meanings answer. -/
abbrev Result := Host.Outcome State Fault Refusal

/-- Go on with `k` after a next state; a stop stays a stop. -/
def andThen (r : Result) (k : State → Result) : Result :=
  match r with
  | .next s => k s
  | .fault f => .fault f
  | .refused f => .refused f

/-! ### The buffer -/

/-- `p.ch(c)` (00_scope.md R13). -/
def channelValue (p : Pixel) : Channel → Byte
  | .red => p.r
  | .green => p.g
  | .blue => p.b

/-- `p.ch(c) <- v`: the other two channels stay (00_scope.md R13; 20_memory.md R53). -/
def setChannel (p : Pixel) (c : Channel) (v : Byte) : Pixel :=
  match c with
  | .red => { p with r := v }
  | .green => { p with g := v }
  | .blue => { p with b := v }

/-- `PB[i]`. -/
def State.pixel (s : State) (i : Fin 42) : Pixel := s.pb[i]

/-- `PB[i].ch(c)`. -/
def State.channel (s : State) (i : Fin 42) (c : Channel) : Byte := channelValue (s.pixel i) c

/-- `PB[i] <- p`. -/
def State.setPixel (s : State) (i : Fin 42) (p : Pixel) : State := { s with pb := s.pb.set i p }

/-- The whole buffer, by index, in one indivisible step (00_scope.md R14). -/
def State.setBuffer (s : State) (f : Fin 42 → Pixel) : State := { s with pb := bufferOf f }

/-- `RDATA <- v`. -/
def State.setRdata (s : State) (v : BitVec 24) : State := { s with rdata := v }

/-! ### Errors -/

/-- `raise Error(code)`: the fault entry of 60_exceptions.md R202. ERR and ERR_CODE are written, nothing else. -/
def raiseError (code : ErrorCode) (s : State) : State :=
  { s with err := true, errCode := errorBits code }

/-- A command's own effect when ERR = 0. When ERR = 1 the command is discarded with no effect (60_exceptions.md
R203). -/
def unlessFaulted (s : State) (effect : Result) : Result := if s.err then .next s else effect

/-- The effect on the channel a `CH` field names; BAD_CHANNEL when it names none (60_exceptions.md R200). -/
def withChannel (ch : ChannelField) (s : State) (effect : Channel → Result) : Result :=
  match channelOf ch with
  | none => .next (raiseError .badChannel s)
  | some c => effect c

/-- The effect at the index an `IDX` field names; INDEX_RANGE when it is 42 or more (20_memory.md R51). -/
def withIndex (idx : BitVec 7) (s : State) (effect : Fin 42 → Result) : Result :=
  match indexOf idx with
  | none => .next (raiseError .indexRange s)
  | some i => effect i

/-! ### Free values -/

/-- The hidden transmit state where the spec leaves it unspecified: any values of its ranges (10_state.md R31, R35;
93_implementation_defined.md section 2). Log 5. -/
def freeSequencer (draw : Nat) : Sequencer where
  slot := Config.freeSlot draw
  item := Config.freeItem draw
  shreg := Config.freeShreg draw
  bitIdx := Config.freeBitIdx draw
  baudCnt := Config.freeBaudCnt draw % Config.bitPeriod

/-- What becomes of the hidden transmit state when no TX uses it any more. -/
def State.releaseSequencer (s : State) : State :=
  { s with seq := freeSequencer s.draws, draws := s.draws + 1 }

/-! ### Reset -/

/-- A reset edge, from any state (70_reset_and_hazards.md R230): INIT, and the table of 10_state.md R35. `sent` is
what a TX it cuts short has sent (R232; log 8); the buffer is free until INIT ends (log 6). -/
def resetWith (sent : List WireFrame) (s : State) : State where
  pb := bufferOf (Config.freeInitPixel s.draws)
  rdata := 0
  err := false
  errCode := 0
  engine := .init
  seq := freeSequencer s.draws
  wire := sent
  cmd := 0
  timer := Config.resetInitCycles
  draws := s.draws + 1
  inputs := s.inputs

/-- The end of INIT: every pixel is black and the Engine is IDLE (70_reset_and_hazards.md R230; 10_state.md R35). -/
def finishInit (s : State) : State :=
  { s with pb := bufferOf fun _ => black, engine := .idle, timer := 0 }

end Sys2Proof.Machine
end

