-- ==== Sys2Proof/Machine/PixelBuffer.lean ====
section
/-! DEFINITION. The pixel buffer access commands (40_pixel_buffer.md). -/

namespace Sys2Proof.Machine

/-- WRPIX: write one full pixel by index (40_pixel_buffer.md R101). -/
def execWrpix (idx : BitVec 7) (colour : Pixel) (s : State) : Result :=
  unlessFaulted s <|
    withIndex idx s fun i => .next (s.setPixel i colour)

/-- NOP: no state changes (40_pixel_buffer.md R100). -/
def execNop (s : State) : Result :=
  unlessFaulted s <| .next s

/-- WRCH: write one channel of one pixel; the channel is checked before the index (40_pixel_buffer.md R102). -/
def execWrch (idx : BitVec 7) (ch : ChannelField) (value : Byte) (s : State) : Result :=
  unlessFaulted s <|
    withChannel ch s fun c =>
      withIndex idx s fun i => .next (s.setPixel i (setChannel (s.pixel i) c value))

/-- RDPIX: one full pixel into RDATA, red in 23:16, green in 15:8, blue in 7:0 (40_pixel_buffer.md R103). -/
def execRdpix (idx : BitVec 7) (s : State) : Result :=
  unlessFaulted s <|
    withIndex idx s fun i => .next (s.setRdata (packColour (s.pixel i)))

/-- RDCH: one channel of one pixel into RDATA, zero-extended; the channel is checked before the index
(40_pixel_buffer.md R104). -/
def execRdch (idx : BitVec 7) (ch : ChannelField) (s : State) : Result :=
  unlessFaulted s <|
    withChannel ch s fun c =>
      withIndex idx s fun i => .next (s.setRdata ((s.channel i c).setWidth 24))

end Sys2Proof.Machine
end

