-- ==== Sys2Proof/Machine/Transform.lean ====
section
/-! DEFINITION. The transform commands (41_transform.md). -/

namespace Sys2Proof.Machine

/-- `fade8`, the per-channel fade datapath: an exact 10-bit sum, then its low byte or the clamped byte (41_transform.md
R123). -/
def fade8 (v : Byte) (amount : BitVec 9) (fm : FadeMode) : Byte :=
  let sum : BitVec 10 := v.setWidth 10 + amount.signExtend 10
  match fm with
  | .modular => sum.setWidth 8
  | .constrained =>
    if sum.getLsbD 9 then 0x00
    else if sum.getLsbD 8 then 0xFF
    else sum.setWidth 8

/-- The index that lies `steps` places after `i` on the ring of 21 of the arm that starts at index `first` (0 or
`H` = 21). -/
def armStep (first steps : Nat) (i : Fin 42) : Fin 42 :=
  Fin.ofNat 42 (first + (i.val - first + steps) % 21)

/-- The old index whose value SHIFT puts at index `i` (41_transform.md R122, R124, R125). A step of -1 on a ring of
length n is written as a step of n - 1. -/
def shiftSource (dir : Direction) (mm : MappingMode) (i : Fin 42) : Fin 42 :=
  match mm, dir with
  | .full, .positive => Fin.ofNat 42 ((i.val + 41) % 42)
  | .full, .negative => Fin.ofNat 42 ((i.val + 1) % 42)
  | .mirrored, .positive => if i.val < 21 then armStep 0 20 i else armStep 21 1 i
  | .mirrored, .negative => if i.val < 21 then armStep 0 1 i else armStep 21 20 i

/-- FILL: every pixel takes the colour (41_transform.md R120). -/
def execFill (colour : Pixel) (s : State) : Result :=
  unlessFaulted s <| .next (s.setBuffer fun _ => colour)

/-- FADE: the named channel of every pixel goes through `fade8`, the other two stay (41_transform.md R121). -/
def execFade (ch : ChannelField) (amount : BitVec 9) (fm : FadeMode) (s : State) : Result :=
  unlessFaulted s <|
    withChannel ch s fun c =>
      .next (s.setBuffer fun i => setChannel (s.pixel i) c (fade8 (s.channel i c) amount fm))

/-- SHIFT: every pixel takes the old value at its source index (41_transform.md R122). -/
def execShift (dir : Direction) (mm : MappingMode) (s : State) : Result :=
  unlessFaulted s <| .next (s.setBuffer fun i => s.pixel (shiftSource dir mm i))

/-! ### The mirror of the two arms, which the laws of 41_transform.md R130 and 42_transmit.md R168 speak of -/

/-- Index `41 - i`, the mirror image of index `i`. -/
def mirrorIndex (i : Fin 42) : Fin 42 := Fin.ofNat 42 (41 - i.val)

/-- `PB[i] = PB[41 - i]` for every `i` (41_transform.md R130). -/
def MirrorSymmetric (pb : Vector Pixel 42) : Prop := ∀ i : Fin 42, pb[i] = pb[mirrorIndex i]

/-- `mirror(PB)`: arm A kept, arm B its mirror image (42_transmit.md R168). -/
def mirrorBuffer (pb : Vector Pixel 42) : Vector Pixel 42 :=
  bufferOf fun i => if i.val ≤ 20 then pb[i] else pb[mirrorIndex i]

end Sys2Proof.Machine
end

