-- ==== Sys2Proof/Machine/Transmit.lean ====
section
/-! DEFINITION. The mapping policy, the byte sequence of TX and the 11-bit wire frame (42_transmit.md). -/

namespace Sys2Proof.Machine

/-! ### The mapping policy -/

/-- The five indices of arm-A chip `k` (0..3), descending from `20 - 5k` (42_transmit.md R151). -/
def armASlot (k : Nat) : List (Fin 42) :=
  [20 - 5 * k, 19 - 5 * k, 18 - 5 * k, 17 - 5 * k, 16 - 5 * k].map (Fin.ofNat 42)

/-- The five indices of arm-B chip `k` (0..3) in Full mode, ascending from `21 + 5k` (42_transmit.md R153). -/
def armBSlot (k : Nat) : List (Fin 42) :=
  [21 + 5 * k, 22 + 5 * k, 23 + 5 * k, 24 + 5 * k, 25 + 5 * k].map (Fin.ofNat 42)

/-- `SLOT_MAP(mm, s)`: the indices whose pixels slot `s` carries, in order (10_state.md R28; 42_transmit.md R150 to
R155). -/
def slotMap (mm : MappingMode) (s : Fin 9) : List (Fin 42) :=
  if s.val < 4 then armASlot s.val
  else if s.val = 4 then
    match mm with
    | .mirrored => [0, 0]
    | .full => [0, 41]
  else
    match mm with
    | .mirrored => armASlot (s.val - 5)
    | .full => armBSlot (s.val - 5)

/-- The slots in the order TX visits them (42_transmit.md R150). -/
def slots : List (Fin 9) := [0, 1, 2, 3, 4, 5, 6, 7, 8]

/-! ### The byte sequence -/

/-- A data byte: address-select bit 0 (42_transmit.md R161). -/
def dataFrame (b : Byte) : WireFrame := ⟨false, b⟩

/-- An address byte: address-select bit 1 (42_transmit.md R161). -/
def addressFrame (s : Fin 9) : WireFrame := ⟨true, Config.chipAddr s⟩

/-- A pixel's three data bytes, green, blue, red (42_transmit.md R157). -/
def pixelFrames (p : Pixel) : List WireFrame := [dataFrame p.g, dataFrame p.b, dataFrame p.r]

/-- What TX sends for one slot: its address byte, then its pixels (42_transmit.md R157). -/
def slotFrames (pb : Vector Pixel 42) (mm : MappingMode) (s : Fin 9) : List WireFrame :=
  addressFrame s :: (slotMap mm s).flatMap fun i => pixelFrames pb[i]

/-- `TxBytes(PB, mm)`: the wire frames one TX sends (42_transmit.md R157). -/
def txBytes (pb : Vector Pixel 42) (mm : MappingMode) : List WireFrame :=
  slots.flatMap (slotFrames pb mm)

/-- How many wire frames slot `s` sends: its address byte and three data bytes a pixel (42_transmit.md R159). -/
def slotLength (mm : MappingMode) (s : Fin 9) : Nat := 1 + 3 * (slotMap mm s).length

/-- The position of slot `s`'s address frame in `TxBytes` (42_transmit.md R159). -/
def slotStart (s : Fin 9) : Nat := if s.val ≤ 4 then 16 * s.val else 71 + 16 * (s.val - 5)

/-! ### The wire frame -/

/-- The 11 bits of a wire frame, bit 0 first on the line: start bit 0, the byte, the select bit, stop bit 1
(42_transmit.md R160, R161). The select bit is no parity (R166). -/
def frameBits (f : WireFrame) : BitVec 11 :=
  0x400 ||| (BitVec.ofBool f.sel).setWidth 11 <<< 9 ||| f.byte.setWidth 11 <<< 1

/-- The wire frame that 11 bits on the line carry. -/
def frameOfBits (v : BitVec 11) : WireFrame := ⟨v.getLsbD 9, v.extractLsb' 1 8⟩

/-! ### The command -/

/-- TX: the whole frame goes to the wire trace; PB, RDATA and the error state stay (42_transmit.md R158). The hidden
transmit state is unspecified once TX has ended (10_state.md R31; log 5). -/
def execTx (mm : MappingMode) (s : State) : Result :=
  unlessFaulted s <| .next ({ s with wire := s.wire ++ txBytes s.pb mm }.releaseSequencer)

end Sys2Proof.Machine
end

