-- ==== Sys2Proof/Machine/Dispatch.lean ====
section
/-! DEFINITION. From an instruction to its meaning, one arm per row of the opcode table. -/

namespace Sys2Proof.Machine

def exec (i : Instr) (s : State) : Host.Outcome State Fault Refusal :=
  match i with
  | .wrpix idx colour => Sys2Proof.Machine.execWrpix idx colour s
  | .nop => Sys2Proof.Machine.execNop s
  | .fill colour => Sys2Proof.Machine.execFill colour s
  | .fade ch amount fm => Sys2Proof.Machine.execFade ch amount fm s
  | .shift dir mm => Sys2Proof.Machine.execShift dir mm s
  | .tx mm => Sys2Proof.Machine.execTx mm s
  | .wrch idx ch value => Sys2Proof.Machine.execWrch idx ch value s
  | .rdpix idx => Sys2Proof.Machine.execRdpix idx s
  | .rdch idx ch => Sys2Proof.Machine.execRdch idx ch s

end Sys2Proof.Machine
end

