-- ==== Sys2Proof/Machine/Engine.lean ====
section
/-! DEFINITION. The Engine and the Serializer: how a word on the command port comes to run. First the command
transaction (00_scope.md R7), then the same machine one clock edge at a time (10_state.md R29 to R33; 42_transmit.md
R162, R163), then what the output ports show. -/

namespace Sys2Proof.Machine

/-! ### One accepted word, as a transaction -/

/-- A word the Engine has accepted: discarded undecoded while ERR = 1 (60_exceptions.md R203); else decoded, and either
its error raised (R202) or its command run. -/
def runWord (w : Word) (s : State) : Result :=
  if s.err then .next s
  else
    match decode w with
    | .error e => .next (raiseError e s)
    | .ok i => exec i s

/-- The mode of the TX a word asks for, if the Engine would enter TX for it: it decodes to TX and ERR = 0 (10_state.md
R30). -/
def entersTx (w : Word) (s : State) : Option MappingMode :=
  if s.err then none
  else
    match decode w with
    | .ok (.tx mm) => some mm
    | _ => none

/-- An accepted command that a reset abandons before it completes. A TX has by then sent some first part of its frame,
any length from 0 to 135; nothing else survives the reset (70_reset_and_hazards.md R230, R232). Logs 8, 9. -/
def cutWord (w : Word) (s : State) : State :=
  match entersTx w s with
  | none => resetWith [] s
  | some mm => resetWith ((txBytes s.pb mm).take (Config.freeCutLength s.draws % 136)) s

/-! ### The sequencer -/

/-- The mode operand of the TX in progress (42_transmit.md R158). -/
def State.txMode (s : State) : MappingMode := mappingModeOfBit (s.cmd.getLsbD 4)

/-- The wire frame at one position of the sequence: item 0 of a slot is its address byte, the others its data bytes
(10_state.md R31). -/
def frameAt (pb : Vector Pixel 42) (mm : MappingMode) (slot : Fin 9) (item : Fin 16) : WireFrame :=
  (slotFrames pb mm slot).getD item.val (dataFrame 0)

/-- How many frames of the sequence come before a position (42_transmit.md R159). -/
def frameIndex (slot : Fin 9) (item : Fin 16) : Nat := slotStart slot + item.val

/-- The position after this one; none after the last (42_transmit.md R150, R157). -/
def nextPosition (mm : MappingMode) (slot : Fin 9) (item : Fin 16) : Option (Fin 9 × Fin 16) :=
  if item.val + 1 < slotLength mm slot then some (slot, Fin.ofNat 16 (item.val + 1))
  else if slot.val < 8 then some (Fin.ofNat 9 (slot.val + 1), 0)
  else none

/-- The sequencer at the first cycle of a position's start bit. The buffer is read here, which R64 of 20_memory.md
allows. -/
def loadFrame (s : State) (mm : MappingMode) (slot : Fin 9) (item : Fin 16) : Sequencer :=
  ⟨slot, item, frameBits (frameAt s.pb mm slot item), 0, 0⟩

/-- The last cycle of a wire frame's stop bit is on the line. -/
def State.frameEnds (s : State) : Bool :=
  s.timer == 0 && s.seq.bitIdx == 10 && decide (Config.bitPeriod ≤ s.seq.baudCnt + 1)

/-- How many whole frames the TX in progress has sent by the coming edge. A frame cut inside its 11 bit-times is not
one (70_reset_and_hazards.md R232; log 9). -/
def State.framesSent (s : State) : Nat :=
  frameIndex s.seq.slot s.seq.item + (if s.frameEnds then 1 else 0)

/-- One clock edge of a TX whose first start bit is on the line: the next cycle of the bit, the next bit, the next
frame, or the end of the TX (42_transmit.md R163; 10_state.md R30). A frame joins the trace when its stop bit has been
driven for its full bit-time. DESIGN CHOICE: `cmd` keeps the finished word in IDLE, where nothing reads it (log 15). -/
def serialEdge (s : State) : State :=
  if s.seq.baudCnt + 1 < Config.bitPeriod then
    { s with seq := { s.seq with baudCnt := s.seq.baudCnt + 1 } }
  else if s.seq.bitIdx.val < 10 then
    { s with seq := { s.seq with bitIdx := Fin.ofNat 11 (s.seq.bitIdx.val + 1), baudCnt := 0 } }
  else
    let sent : State := { s with wire := s.wire ++ [frameOfBits s.seq.shreg] }
    match nextPosition s.txMode s.seq.slot s.seq.item with
    | some (slot, item) => { sent with seq := loadFrame s s.txMode slot item }
    | none => { sent.releaseSequencer with engine := .idle }

/-! ### One clock edge -/

/-- The edge that accepts a word: TX for a TX that will run, else EXEC (10_state.md R30, R33). -/
def acceptEdge (w : Word) (s : State) : State :=
  match entersTx w s with
  | some mm => { s with engine := .tx, cmd := w, timer := Config.txStartLatency, seq := loadFrame s mm 0 0 }
  | none => { s with engine := .exec, cmd := w, timer := Config.execLatency s.err w }

/-- The end of EXEC: the command's whole effect, and IDLE (10_state.md R30). The draws of what the ports showed are used
up (log 14). DESIGN CHOICE: `cmd` keeps the finished word in IDLE, where nothing reads it (log 15). -/
def finishExec (s : State) : Result :=
  andThen (runWord s.cmd s) fun t => .next { t with engine := .idle, timer := 0, draws := t.draws + 1 }

/-- A reset edge in whatever state (70_reset_and_hazards.md R230): a TX in progress ends, having sent its whole frames
so far (R232). DESIGN CHOICE: every edge with `rst` = 1 is a reset of its own, so the second edge of a reset held over a
TX finds INIT and leaves W empty (log 8). -/
def resetEdge (s : State) : State :=
  if s.engine = .tx then resetWith ((txBytes s.pb s.txMode).take s.framesSent) s else resetWith [] s

/-- One rising edge of `clk` with these input levels. Reset wins over everything (70_reset_and_hazards.md R231); a word
is accepted only in IDLE (10_state.md R33). Logs 10, 11. -/
def clockEdge (p : Pins) (s : State) : Result :=
  if p.rst then .next (resetEdge s)
  else
    match s.engine with
    | .init => .next (if s.timer = 0 then finishInit s else { s with timer := s.timer - 1 })
    | .idle => .next (if p.cmdValid then acceptEdge p.cmdData s else s)
    | .exec => if s.timer ≤ 1 then finishExec s else .next { s with timer := s.timer - 1 }
    | .tx => .next (if s.timer = 0 then serialEdge s else { s with timer := s.timer - 1 })

/-- Clock edges one after another, stopping at a stop. -/
def clockRun : List Pins → State → Result
  | [], s => .next s
  | p :: ps, s => andThen (clockEdge p s) (clockRun ps)

/-! ### Waiting for `cmd_ready` -/

/-- What is in progress runs to its end, with no reset and no new command: INIT, the command in EXEC, or the rest of the
TX's frames. In IDLE nothing happens (10_state.md R30; 70_reset_and_hazards.md R241). Log 21. DESIGN CHOICE: `cmd` keeps
the finished word (log 15). -/
def runToIdle (s : State) : Result :=
  match s.engine with
  | .init => .next (finishInit s)
  | .idle => .next s
  | .exec => finishExec s
  | .tx =>
    .next { { s with wire := s.wire ++ (txBytes s.pb s.txMode).drop (frameIndex s.seq.slot s.seq.item) }.releaseSequencer
      with engine := .idle, timer := 0 }

/-! ### The host's actions -/

/-- A host action that needs `cmd_ready`: it is taken when the Engine is IDLE; else what is in progress runs to its end
first and the action stays the next one (10_state.md R33). -/
def whenReady (rest : List HostAction) (s : State) (act : State → Result) : Result :=
  if s.engine = .idle then act { s with inputs := rest } else runToIdle s

/-- One host action (log 1). With none left, what is in progress runs to its end, and an IDLE Engine stays as it is
(70_reset_and_hazards.md R241). -/
def hostStep (s : State) : Result :=
  match s.inputs with
  | [] => runToIdle s
  | .edge p :: rest => clockEdge p { s with inputs := rest }
  | .command w :: rest => whenReady rest s (runWord w)
  | .cutCommand w :: rest => whenReady rest s fun t => .next (cutWord w t)

/-- The next host action is an edge with `rst` = 1, which resets the machine from any state (70_reset_and_hazards.md
R230). -/
def nextIsReset (s : State) : Bool :=
  match s.inputs with
  | .edge p :: _ => p.rst
  | _ => false

/-- ERR_CODE holds a value the hardware never produces (60_exceptions.md R200), and no reset comes. -/
def State.stuck (s : State) : Bool := decide (3 < s.errCode.toNat) && !nextIsReset s

/-- The word is put where the next step accepts it: first on the command port, with the Engine IDLE (INIT is over and
the buffer black, if it was in INIT). -/
def offerWord (w : Word) (s : State) : State :=
  { s with
    pb := if s.engine = .init then bufferOf (fun _ => black) else s.pb
    engine := .idle
    timer := 0
    inputs := .command w :: s.inputs }

/-! ### The output ports -/

/-- `ser_out`: the bit of `shreg` on the line from the first start bit of a TX on (42_transmit.md R163), else the idle
level 1 (R161, R162). DEDUCED from "the line idles at 1" (R161): the line is idle, so 1, also in the `TX_START_LATENCY`
cycles between the acceptance of a TX and its first start bit, of which neither R162 nor R163 speaks (log 23). -/
def State.serOut (s : State) : Bool :=
  if s.engine = .tx ∧ s.timer = 0 then s.seq.shreg.getLsbD s.seq.bitIdx.val else true

/-- The state the command in EXEC will leave; the state itself where none is in EXEC. -/
def State.pending (s : State) : State :=
  match s.engine, runWord s.cmd s with
  | .exec, .next t => t
  | _, _ => s

/-- The `rdata` port: RDATA, but before `cmd_ready` returns either the old or the new value (70_reset_and_hazards.md
R236). Log 7. -/
def State.rdataPort (s : State) : BitVec 24 :=
  if Config.freeRdataIsNew s.draws s.timer then s.pending.rdata else s.rdata

/-- The `status` port: STATUS, but while a command is in EXEC its error bits are the old ones up to some cycle, a free
one, and from it on the new ones (70_reset_and_hazards.md R236). The bits are sticky on the port as in the register
(10_state.md R24). Log 7. -/
def State.statusPort (s : State) : BitVec 16 :=
  if s.timer ≤ Config.freeStatusLead s.draws then statusWord s.busy s.pending.err s.txact s.pending.errCode
  else s.status

end Sys2Proof.Machine
end

