-- ==== Sys2Proof/Machine/Step.lean ====
section
/-! DEFINITION. One step: the next host action (log 1). -/

namespace Sys2Proof.Machine

/-- One step. A state whose ERR_CODE holds a value the hardware never produces is stuck until a reset
(93_implementation_defined.md section 3; log 13). -/
def step (s : State) : Host.Outcome State Fault Refusal :=
  if s.stuck then .fault .reservedErrCode else hostStep s

/-- The state with a command word where the very next step accepts it: first on the command port (log 16). -/
def State.withFetchWord (s : State) (nbits w : Nat) : State := offerWord (BitVec.ofNat 32 (w % 2 ^ nbits)) s

end Sys2Proof.Machine
end

