-- ==== Sys2Proof/Machine/Assembler.lean ====
section
/-! DEFINITION. The assembler syntax and the pseudo-instructions (30_encoding.md R79, R80), from the characters of a line
to a command word. Log 18. -/

namespace Sys2Proof.Machine

/-- What one line of assembly gives: no command (blank or a comment only), one word, or a refusal (30_encoding.md
R79). -/
inductive AsmLine where
  | nothing
  | word (w : Word)
  | refused
  deriving DecidableEq, Repr

/-! ### Characters and numbers -/

/-- A blank between tokens. -/
def isBlank (c : Char) : Bool := c == ' ' || c == '\t' || c == '\r'

/-- Characters without the blanks at both ends. -/
def trimBlanks (cs : List Char) : List Char := ((cs.dropWhile isBlank).reverse.dropWhile isBlank).reverse

/-- A list cut at every `sep`. -/
def cutAt (sep : Char) : List Char → List (List Char)
  | [] => [[]]
  | c :: cs =>
    match cutAt sep cs with
    | [] => [[c]]
    | f :: fs => if c = sep then [] :: f :: fs else (c :: f) :: fs

/-- A digit of base 10 or 16, letters in capitals. -/
def digitOf (base : Nat) (c : Char) : Option Nat :=
  let v := if '0' ≤ c ∧ c ≤ '9' then c.toNat - 48 else if 'A' ≤ c ∧ c ≤ 'F' then c.toNat - 55 else base
  if v < base then some v else none

/-- The number some digits spell, the first the highest, after the digits already read. -/
def digitsFrom (base acc : Nat) : List Char → Option Nat
  | [] => some acc
  | c :: cs =>
    match digitOf base c with
    | some d => digitsFrom base (acc * base + d) cs
    | none => none

/-- A number of at least one digit. -/
def digits (base : Nat) (cs : List Char) : Option Nat := if cs.isEmpty then none else digitsFrom base 0 cs

/-- "Numbers are decimal, or hexadecimal with `0x`" (30_encoding.md R79). Letters are capitals by now, so `0X` and small
hexadecimal digits pass too: DESIGN CHOICE, the rule says nothing of letter case in numbers (log 18). -/
def number (cs : List Char) : Option Nat :=
  match cs with
  | '0' :: 'X' :: ds => digits 16 ds
  | ds => digits 10 ds

/-- A number that fits a field of `n` bits; the assembler refuses any operand outside its field (30_encoding.md
R79). -/
def fieldNumber (n : Nat) (cs : List Char) : Option (BitVec n) :=
  match number cs with
  | some v => if v < 2 ^ n then some (BitVec.ofNat n v) else none
  | none => none

/-- "amount a signed decimal in -256..255" (30_encoding.md R79). -/
def signedAmount (cs : List Char) : Option (BitVec 9) :=
  match cs with
  | '-' :: ds =>
    match digits 10 ds with
    | some v => if v ≤ 256 then some (BitVec.ofInt 9 (-(v : Int))) else none
    | none => none
  | '+' :: ds =>
    match digits 10 ds with
    | some v => if v ≤ 255 then some (BitVec.ofNat 9 v) else none
    | none => none
  | ds =>
    match digits 10 ds with
    | some v => if v ≤ 255 then some (BitVec.ofNat 9 v) else none
    | none => none

/-! ### Operands -/

/-- A colour literal `#RRGGBB` (00_scope.md R12), its digits in either case (log 18). -/
def colourLiteral (cs : List Char) : Option Pixel :=
  match cs with
  | '#' :: ds =>
    if ds.length = 6 then (digits 16 ds).map fun v => colourField (BitVec.ofNat 32 v) else none
  | _ => none

/-- The value a keyword table gives a keyword. -/
def keyword {α : Type} (table : List (List Char × α)) (cs : List Char) : Option α :=
  (table.find? fun row => row.1 == cs).map Prod.snd

/-- `ch` in `R`, `G`, `B`: the assembler cannot spell `CH = 3` (30_encoding.md R79). -/
def channelWord : List Char → Option ChannelField :=
  keyword [(['R'], .red), (['G'], .green), (['B'], .blue)]

/-- `fm` in `MOD`, `CON` (30_encoding.md R79). -/
def fadeModeWord : List Char → Option FadeMode :=
  keyword [(['M', 'O', 'D'], .modular), (['C', 'O', 'N'], .constrained)]

/-- `dir` in `POS`, `NEG` (30_encoding.md R79). -/
def directionWord : List Char → Option Direction :=
  keyword [(['P', 'O', 'S'], .positive), (['N', 'E', 'G'], .negative)]

/-- `mm` in `MIR`, `FULL` (30_encoding.md R79). -/
def mappingModeWord : List Char → Option MappingMode :=
  keyword [(['M', 'I', 'R'], .mirrored), (['F', 'U', 'L', 'L'], .full)]

/-! ### Commands -/

/-- The mnemonics, the pseudo-instructions and the raw-word line (30_encoding.md R79, R80). -/
inductive AsmName where
  | nop | fill | fade | shift | tx | wrpix | wrch | rdpix | rdch
  | clear | inward | outward | rotup | rotdn | txmir | txfull
  | rawWord
  deriving DecidableEq, Repr

/-- The spelling of each, in capitals (30_encoding.md R79, R80). -/
def asmName : List Char → Option AsmName :=
  keyword
    [(['N', 'O', 'P'], .nop), (['F', 'I', 'L', 'L'], .fill), (['F', 'A', 'D', 'E'], .fade),
     (['S', 'H', 'I', 'F', 'T'], .shift), (['T', 'X'], .tx), (['W', 'R', 'P', 'I', 'X'], .wrpix),
     (['W', 'R', 'C', 'H'], .wrch), (['R', 'D', 'P', 'I', 'X'], .rdpix), (['R', 'D', 'C', 'H'], .rdch),
     (['C', 'L', 'E', 'A', 'R'], .clear), (['I', 'N', 'W', 'A', 'R', 'D'], .inward),
     (['O', 'U', 'T', 'W', 'A', 'R', 'D'], .outward), (['R', 'O', 'T', 'U', 'P'], .rotup),
     (['R', 'O', 'T', 'D', 'N'], .rotdn), (['T', 'X', 'M', 'I', 'R'], .txmir),
     (['T', 'X', 'F', 'U', 'L', 'L'], .txfull), (['.', 'W', 'O', 'R', 'D'], .rawWord)]

/-- The word of a command from its operands, if each is in its field; the pseudo-instructions by their expansions
(30_encoding.md R79, R80). -/
def asmWord (name : AsmName) (operands : List (List Char)) : Option Word :=
  match name, operands with
  | .nop, [] => some (encode .nop)
  | .fill, [c] => (colourLiteral c).map fun colour => encode (.fill colour)
  | .fade, [ch, amount, fm] => do
    return encode (.fade (← channelWord ch) (← signedAmount amount) (← fadeModeWord fm))
  | .shift, [dir, mm] => do return encode (.shift (← directionWord dir) (← mappingModeWord mm))
  | .tx, [mm] => (mappingModeWord mm).map fun m => encode (.tx m)
  | .wrpix, [idx, c] => do return encode (.wrpix (← fieldNumber 7 idx) (← colourLiteral c))
  | .wrch, [idx, ch, v] => do
    return encode (.wrch (← fieldNumber 7 idx) (← channelWord ch) (← fieldNumber 8 v))
  | .rdpix, [idx] => (fieldNumber 7 idx).map fun i => encode (.rdpix i)
  | .rdch, [idx, ch] => do return encode (.rdch (← fieldNumber 7 idx) (← channelWord ch))
  | .clear, [] => some (encode (.fill black))
  | .inward, [] => some (encode (.shift .positive .mirrored))
  | .outward, [] => some (encode (.shift .negative .mirrored))
  | .rotup, [] => some (encode (.shift .positive .full))
  | .rotdn, [] => some (encode (.shift .negative .full))
  | .txmir, [] => some (encode (.tx .mirrored))
  | .txfull, [] => some (encode (.tx .full))
  | .rawWord, [w] => fieldNumber 32 w
  | _, _ => none

/-- One line of assembly: the comment dropped, a name, then operands between commas (30_encoding.md R79). The whole line is
put in capitals: for mnemonics and keywords the rule says so, for numbers and colours it is a DESIGN CHOICE (log 18). -/
def assembleLine (line : List Char) : AsmLine :=
  let text := trimBlanks ((line.takeWhile (· != ';')).map Char.toUpper)
  if text.isEmpty then .nothing
  else
    let name := text.takeWhile fun c => !isBlank c
    let rest := trimBlanks (text.dropWhile fun c => !isBlank c)
    let operands := if rest.isEmpty then [] else (cutAt ',' rest).map trimBlanks
    match asmName name with
    | none => .refused
    | some n =>
      match asmWord n operands with
      | some w => .word w
      | none => .refused

/-- The words of lines in order; none if one line is refused. -/
def assembleLines : List (List Char) → Option (List Word)
  | [] => some []
  | line :: lines =>
    match assembleLine line, assembleLines lines with
    | .refused, _ => none
    | _, none => none
    | .nothing, some ws => some ws
    | .word w, some ws => some (w :: ws)

/-- A program text: one command per line (30_encoding.md R79). -/
def assemble (text : List Char) : Option (List Word) := assembleLines (cutAt '\n' text)

/-- The host issuing a program's words one command at a time (95_test_vectors.md section 3). -/
def State.withProgram (s : State) (words : List Word) : State := { s with inputs := words.map .command }

end Sys2Proof.Machine
end

