-- ==== Sys2Proof/Safety.lean ====
section
/-! DEFINITION. What counts as a legal state and a safe run, in the terms the statements use. -/

namespace Sys2Proof.Machine

/-- ERR_CODE is 0..3, and 0 exactly while ERR = 0 (10_state.md R24; 60_exceptions.md R200). -/
def StatusLegal (s : State) : Prop := s.errCode.toNat ≤ 3 ∧ (s.err = false ↔ s.errCode = 0)

/-- The waits of the Engine are within their parameters (10_state.md R30; 00_scope.md R9): none in IDLE, at least one
cycle of EXEC left in EXEC. -/
def TimerLegal (s : State) : Prop :=
  match s.engine with
  | .init => s.timer ≤ Config.resetInitCycles
  | .idle => s.timer = 0
  | .exec => 1 ≤ s.timer ∧ s.timer ≤ Config.execLatency s.err s.cmd
  | .tx => s.timer ≤ Config.txStartLatency

/-- EXEC never runs a TX that ERR = 0 would send (10_state.md R30). -/
def ExecLegal (s : State) : Prop := s.engine = .exec → entersTx s.cmd s = none

/-- What holds of a TX in progress (10_state.md R30, R31; 42_transmit.md R157): ERR = 0, the word in progress is a TX,
the position is one of its slot's, `shreg` is the frame of that position, nothing has moved before the first start
bit, and the frames before the position are the newest of the trace. -/
structure TxLegal (s : State) : Prop where
  running : entersTx s.cmd s = some s.txMode
  position : s.seq.item.val < slotLength s.txMode s.seq.slot
  shifting : s.seq.shreg = frameBits (frameAt s.pb s.txMode s.seq.slot s.seq.item)
  waiting : s.timer ≠ 0 → s.seq = loadFrame s s.txMode 0 0
  traced : (txBytes s.pb s.txMode).take (frameIndex s.seq.slot s.seq.item) <:+ s.wire

/-- The legal states: what every run from reset keeps. -/
structure Legal (s : State) : Prop where
  status : StatusLegal s
  timer : TimerLegal s
  exec : ExecLegal s
  baud : s.seq.baudCnt < Config.bitPeriod
  tx : s.engine = .tx → TxLegal s

/-- `k` steps end in a state, with no fault and no refusal on the way. -/
def RunsOn (k : Nat) (s : State) : Prop := ∃ t, Host.Core.run Sys2Proof.core k s = .next t

/-- The same instruction run `k` times in a row, stopping at a stop. -/
def repeatExec : Nat → Instr → State → Result
  | 0, _, s => .next s
  | k + 1, i, s => andThen (exec i s) (repeatExec k i)

/-- Instructions one after another, stopping at a stop. -/
def execAll : List Instr → State → Result
  | [], s => .next s
  | i :: is, s => andThen (exec i s) (execAll is)

/-- The instruction puts `v` into channel `c` of pixel `i`: a WRPIX, a WRCH or a FILL (20_memory.md R50, R58). -/
def Writes (i : Fin 42) (c : Channel) (v : Byte) : Instr → Prop
  | .wrpix idx colour => idx.toNat = i.val ∧ channelValue colour c = v
  | .nop => False
  | .fill colour => channelValue colour c = v
  | .fade _ _ _ => False
  | .shift _ _ => False
  | .tx _ => False
  | .wrch idx ch value => idx.toNat = i.val ∧ channelOf ch = some c ∧ value = v
  | .rdpix _ => False
  | .rdch _ _ => False

/-- The instruction writes only elsewhere than channel `c` of pixel `i`, or nowhere (20_memory.md R50, R53). -/
def LeavesAlone (i : Fin 42) (c : Channel) : Instr → Prop
  | .wrpix idx _ => idx.toNat ≠ i.val
  | .nop => True
  | .fill _ => False
  | .fade ch _ _ => channelOf ch ≠ some c
  | .shift _ _ => False
  | .tx _ => True
  | .wrch idx ch _ => idx.toNat ≠ i.val ∨ channelOf ch ≠ some c
  | .rdpix _ => True
  | .rdch _ _ => True

/-- What RDCH and RDPIX answer for channel `c` of pixel `i` is `v` (40_pixel_buffer.md R103, R104). -/
def ReadsAs (i : Fin 42) (c : Channel) (v : Byte) (s : State) : Prop :=
  (∀ (idx : BitVec 7) (ch : ChannelField), idx.toNat = i.val → channelOf ch = some c →
    ∃ t, exec (.rdch idx ch) s = .next t ∧ t.rdata = v.setWidth 24)
  ∧ ∀ idx : BitVec 7, idx.toNat = i.val → ∃ t, exec (.rdpix idx) s = .next t
    ∧ channelValue ⟨t.rdata.extractLsb' 16 8, t.rdata.extractLsb' 8 8, t.rdata.extractLsb' 0 8⟩ c = v

/-- The edge at which the host offers `w` (10_state.md R33). -/
def offerEdge (w : Word) : Pins := ⟨false, true, w⟩

/-- The level of the line `n` cycles after the edge that accepts a TX (42_transmit.md R163): idle until the first start
bit (log 23), then bit `j` of frame `k` for `BIT_PERIOD` cycles from cycle `TX_START_LATENCY + (11k + j) * BIT_PERIOD`. -/
def lineLevel (frames : List WireFrame) (n : Nat) : Bool :=
  if n < Config.txStartLatency then true
  else
    let bitTime := (n - Config.txStartLatency) / Config.bitPeriod
    (frameBits (frames.getD (bitTime / 11) (dataFrame 0))).getLsbD (bitTime % 11)

/-- Input levels of edges without a reset. -/
def NoReset (ps : List Pins) : Prop := ∀ p ∈ ps, p.rst = false

end Sys2Proof.Machine
end

