-- ==== Sys2Proof/Certificates/Slice0/Obligations.lean ====
section
/-! DEFINITION. The statements about GLXT that the provers prove. -/

open Sys2Proof Sys2Proof.Machine

/-! ### Encoding -/

/-- Decode and encode agree (30_encoding.md R71, R72, R74): no bit of any operand is dropped. -/
def Obligations.DecodeInvertsEncode : Prop :=
  ∀ i : Instr, decode (encode i) = .ok i

/-- The other direction: a word the decoder accepts is the encoding of what it reads, so no reserved bit is accepted
(30_encoding.md R76, R77). -/
def Obligations.EncodeInvertsDecode : Prop :=
  ∀ (w : Word) (i : Instr), decode w = .ok i → encode i = w

/-- "A word is command X exactly when `(cmd AND MASK) == MATCH` for X's row. The rows are disjoint." (30_encoding.md
R76), and a word of no row is ILLEGAL_ENCODING (R77). -/
def Obligations.DecodeFollowsTheOpcodeMap : Prop :=
  (∀ (w : Word) (op : Opcode), matchesRow op w = true ↔ ∃ i, decode w = .ok i ∧ opcodeOf i = op)
  ∧ (∀ (w : Word) (a b : Opcode), matchesRow a w = true → matchesRow b w = true → a = b)
  ∧ ∀ w : Word, decode w = .error .illegalEncoding ↔ ∀ op : Opcode, matchesRow op w = false

/-- The words V-EN1 to V-EN18 of 95_test_vectors.md section 2.1 decode to the instructions they stand for. -/
def Obligations.SpecWordsDecode : Prop :=
  decode 0x00000000 = .ok .nop
  ∧ decode 0x10102030 = .ok (.fill ⟨0x10, 0x20, 0x30⟩)
  ∧ decode 0x200111CE = .ok (.fade .green (BitVec.ofInt 9 (-50)) .constrained)
  ∧ decode 0x20010064 = .ok (.fade .red (BitVec.ofInt 9 100) .constrained)
  ∧ decode 0x20002100 = .ok (.fade .blue (BitVec.ofInt 9 (-256)) .modular)
  ∧ decode 0x200020FF = .ok (.fade .blue (BitVec.ofInt 9 255) .modular)
  ∧ decode 0x30000000 = .ok (.shift .positive .mirrored)
  ∧ decode 0x30000001 = .ok (.shift .negative .mirrored)
  ∧ decode 0x30000010 = .ok (.shift .positive .full)
  ∧ decode 0x30000011 = .ok (.shift .negative .full)
  ∧ decode 0x40000000 = .ok (.tx .mirrored)
  ∧ decode 0x40000010 = .ok (.tx .full)
  ∧ decode 0x50071080 = .ok (.wrch 7 .green 0x80)
  ∧ decode 0x60050000 = .ok (.rdpix 5)
  ∧ decode 0x70072000 = .ok (.rdch 7 .blue)
  ∧ decode 0x85FF8000 = .ok (.wrpix 5 ⟨0xFF, 0x80, 0x00⟩)
  ∧ decode 0xA9FFFFFF = .ok (.wrpix 41 ⟨0xFF, 0xFF, 0xFF⟩)
  ∧ decode 0x80000000 = .ok (.wrpix 0 ⟨0x00, 0x00, 0x00⟩)

/-- An accepted word is discarded while ERR = 1; else it runs, or raises the first error of ILLEGAL_ENCODING, BAD_CHANNEL,
INDEX_RANGE that it has (30_encoding.md R75; 60_exceptions.md R204); its row and operands are those of R76 and R72. -/
def Obligations.WordErrorsInOrder : Prop :=
  ∀ (w : Word) (s : State),
    (s.err = true → runWord w s = .next s)
    ∧ (s.err = false → (∀ op : Opcode, matchesRow op w = false) →
        runWord w s = .next (raiseError .illegalEncoding s))
    ∧ ∀ op : Opcode, s.err = false → matchesRow op w = true →
      ((operandsOf op w).channelOk = false → runWord w s = .next (raiseError .badChannel s))
      ∧ ((operandsOf op w).channelOk = true → (operandsOf op w).indexOk = false →
          runWord w s = .next (raiseError .indexRange s))
      ∧ ((operandsOf op w).wellFormed = true → runWord w s = exec (operandsOf op w) s)

/-- The assembler cannot spell `CH = 3` or a set reserved bit, but in a raw `.word` line (30_encoding.md R79). -/
def Obligations.AssemblerSpellsOnlyLegalFields : Prop :=
  ∀ (name : AsmName) (operands : List (List Char)) (w : Word), name ≠ .rawWord →
    asmWord name operands = some w → ∃ i, decode w = .ok i ∧ i.channelOk = true

/-- The pseudo-instructions and their words (30_encoding.md R80). -/
def Obligations.PseudoInstructionWords : Prop :=
  assembleLine ['C', 'L', 'E', 'A', 'R'] = .word 0x10000000
  ∧ assembleLine ['I', 'N', 'W', 'A', 'R', 'D'] = .word 0x30000000
  ∧ assembleLine ['O', 'U', 'T', 'W', 'A', 'R', 'D'] = .word 0x30000001
  ∧ assembleLine ['R', 'O', 'T', 'U', 'P'] = .word 0x30000010
  ∧ assembleLine ['R', 'O', 'T', 'D', 'N'] = .word 0x30000011
  ∧ assembleLine ['T', 'X', 'M', 'I', 'R'] = .word 0x40000000
  ∧ assembleLine ['T', 'X', 'F', 'U', 'L', 'L'] = .word 0x40000010

/-! ### A step -/

/-- A step runs the decoded instruction: with the Engine IDLE, ERR = 0 and a word on the command port that decodes to
`i`, the step is `exec i`, the word taken off the host's list (log 1). -/
def Obligations.StepRunsTheDecodedInstruction : Prop :=
  ∀ (s : State) (w : Word) (rest : List HostAction) (i : Instr), s.engine = .idle → s.err = false →
    s.errCode.toNat ≤ 3 → s.inputs = .command w :: rest → decode w = .ok i →
    step s = exec i { s with inputs := rest }

/-- A word that `withFetchWord` places is the one the next step runs, from the reset state (log 16). -/
def Obligations.FetchedWordRunsFirstAfterReset : Prop :=
  ∀ (w : Nat) (i : Instr), decodeTableWord 32 w = some i →
    step (State.reset.withFetchWord 32 w) = exec i (finishInit State.reset)

/-- Fault entry (60_exceptions.md R202): a word that `decodeChecked` gives an error sets ERR and puts the error's code into
ERR_CODE, 1 for ILLEGAL_ENCODING, 2 for INDEX_RANGE, 3 for BAD_CHANNEL (R200); nothing else changes, and the next word
can be accepted. -/
def Obligations.FaultEntryChangesOnlyStatus : Prop :=
  ∀ (s : State) (w : Word) (rest : List HostAction) (e : ErrorCode), s.engine = .idle → s.err = false →
    s.errCode.toNat ≤ 3 → s.inputs = .command w :: rest → decodeChecked w = .error e →
    ∃ t, step s = .next t ∧ t.err = true ∧ t.cmdReady = true
      ∧ (e = .illegalEncoding → t.errCode = 1) ∧ (e = .indexRange → t.errCode = 2)
      ∧ (e = .badChannel → t.errCode = 3)
      ∧ t = { s with inputs := rest, err := true, errCode := t.errCode }

/-- The fault state (60_exceptions.md R203): every word is accepted and discarded. Over any clock edges without a reset
ERR, ERR_CODE, PB, RDATA and W stay and the line stays idle. -/
def Obligations.FaultStateDiscardsUntilReset : Prop :=
  (∀ (s : State) (w : Word) (rest : List HostAction), s.engine = .idle → s.err = true → s.errCode.toNat ≤ 3 →
      s.inputs = .command w :: rest → step s = .next { s with inputs := rest })
  ∧ ∀ (s : State) (ps : List Pins), s.err = true → s.engine = .idle ∨ s.engine = .exec → NoReset ps →
      ∃ t, clockRun ps s = .next t ∧ t.err = true ∧ t.errCode = s.errCode ∧ t.pb = s.pb ∧ t.rdata = s.rdata
        ∧ t.wire = s.wire ∧ t.serOut = true

/-- "Only reset clears it" (10_state.md R24): a step that does not end in INIT keeps a set ERR and its first code. -/
def Obligations.ErrorIsSticky : Prop :=
  ∀ s t : State, step s = .next t → s.err = true → t.engine ≠ .init → t.err = true ∧ t.errCode = s.errCode

/-- No step that does not end in INIT takes a frame off the trace or changes one (10_state.md R34; 20_memory.md
R58). -/
def Obligations.WireTraceOnlyGrows : Prop :=
  ∀ s t : State, step s = .next t → t.engine ≠ .init → s.wire <+: t.wire

/-- "Only RDPIX and RDCH write it" (10_state.md R25): where a step changes RDATA, either it ends in INIT, or the word it
ran, the one offered or the one in EXEC, is one of the two and ERR was 0. -/
def Obligations.OnlyReadsAndResetChangeRdata : Prop :=
  ∀ s t : State, step s = .next t → t.rdata ≠ s.rdata →
    t.engine = .init
    ∨ s.err = false ∧ ∃ w, ((∃ rest, s.inputs = .command w :: rest) ∨ s.engine = .exec ∧ s.cmd = w)
        ∧ ((∃ idx, decode w = .ok (.rdpix idx)) ∨ ∃ idx ch, decode w = .ok (.rdch idx ch))

/-! ### Buffer access -/

/-- NOP changes nothing (40_pixel_buffer.md R100). -/
def Obligations.NopChangesNothing : Prop :=
  ∀ s : State, s.err = false → exec .nop s = .next s

/-- WRPIX with an index below 42 writes that pixel and nothing else (40_pixel_buffer.md R101, R105). -/
def Obligations.WrpixWritesOnePixel : Prop :=
  ∀ (idx : BitVec 7) (colour : Pixel) (s : State) (i : Fin 42), s.err = false → idx.toNat = i.val →
    ∃ t, exec (.wrpix idx colour) s = .next t ∧ t.pixel i = colour
      ∧ (∀ j : Fin 42, j ≠ i → ∀ c : Channel, t.channel j c = s.channel j c) ∧ t = { s with pb := t.pb }

/-- WRCH with a named channel and an index below 42 writes that channel of that pixel and nothing else
(40_pixel_buffer.md R102, R105). -/
def Obligations.WrchWritesOneChannel : Prop :=
  ∀ (idx : BitVec 7) (ch : ChannelField) (value : Byte) (s : State) (i : Fin 42) (c : Channel),
    s.err = false → channelOf ch = some c → idx.toNat = i.val →
    ∃ t, exec (.wrch idx ch value) s = .next t ∧ t.channel i c = value
      ∧ (∀ (j : Fin 42) (d : Channel), (j, d) ≠ (i, c) → t.channel j d = s.channel j d)
      ∧ t = { s with pb := t.pb }

/-- RDPIX with an index below 42 puts R, G and B of that pixel into RDATA bits 23:16, 15:8 and 7:0, and changes nothing
else (40_pixel_buffer.md R103, R105). -/
def Obligations.RdpixReadsOnePixel : Prop :=
  ∀ (idx : BitVec 7) (s : State) (i : Fin 42), s.err = false → idx.toNat = i.val →
    ∃ t, exec (.rdpix idx) s = .next t ∧ t.rdata.extractLsb' 16 8 = (s.pixel i).r
      ∧ t.rdata.extractLsb' 8 8 = (s.pixel i).g ∧ t.rdata.extractLsb' 0 8 = (s.pixel i).b
      ∧ t = { s with rdata := t.rdata }

/-- RDCH with a named channel and an index below 42 puts that channel into RDATA bits 7:0 and 0 into bits 23:8, and
changes nothing else (40_pixel_buffer.md R104, R105). -/
def Obligations.RdchReadsOneChannel : Prop :=
  ∀ (idx : BitVec 7) (ch : ChannelField) (s : State) (i : Fin 42) (c : Channel),
    s.err = false → channelOf ch = some c → idx.toNat = i.val →
    ∃ t, exec (.rdch idx ch) s = .next t ∧ t.rdata.extractLsb' 0 8 = s.channel i c
      ∧ t.rdata.extractLsb' 8 16 = 0 ∧ t = { s with rdata := t.rdata }

/-- An index of 42 to 127 raises INDEX_RANGE, code 2, in WRPIX and RDPIX, and in WRCH and RDCH when the channel is
named; nothing but ERR and ERR_CODE changes (20_memory.md R51; 60_exceptions.md R200). -/
def Obligations.IndexOutOfRangeRaises : Prop :=
  ∀ (idx : BitVec 7) (ch : ChannelField) (colour : Pixel) (value : Byte) (s : State),
    s.err = false → 42 ≤ idx.toNat →
    exec (.wrpix idx colour) s = .next { s with err := true, errCode := 2 }
    ∧ exec (.rdpix idx) s = .next { s with err := true, errCode := 2 }
    ∧ (ch ≠ .noChannel → exec (.wrch idx ch value) s = .next { s with err := true, errCode := 2 }
        ∧ exec (.rdch idx ch) s = .next { s with err := true, errCode := 2 })

/-- `CH = 3` raises BAD_CHANNEL, code 3, in FADE, WRCH and RDCH, whatever the index; nothing but ERR and ERR_CODE
changes (30_encoding.md R73; 60_exceptions.md R200, R204). -/
def Obligations.BadChannelRaises : Prop :=
  ∀ (idx : BitVec 7) (amount : BitVec 9) (fm : FadeMode) (value : Byte) (s : State), s.err = false →
    exec (.fade .noChannel amount fm) s = .next { s with err := true, errCode := 3 }
    ∧ exec (.wrch idx .noChannel value) s = .next { s with err := true, errCode := 3 }
    ∧ exec (.rdch idx .noChannel) s = .next { s with err := true, errCode := 3 }

/-- "A read command returns the value the last earlier write to that location put there, or the reset value if no write has
been made" (20_memory.md R58): after a well-formed WRPIX, WRCH or FILL that writes a channel of a pixel, and any list of
well-formed instructions that write only elsewhere or nowhere, RDCH and RDPIX give what was written; after such a list
alone from reset with INIT over they give 0. -/
def Obligations.ReadReturnsTheLastWrite : Prop :=
  ∀ (i : Fin 42) (c : Channel) (others : List Instr),
    (∀ j ∈ others, j.wellFormed = true ∧ LeavesAlone i c j) →
    (∀ (v : Byte) (write : Instr) (s : State), s.err = false → Writes i c v write →
      ∃ t, execAll (write :: others) s = .next t ∧ ReadsAs i c v t)
    ∧ ∃ t, execAll others (finishInit State.reset) = .next t ∧ ReadsAs i c 0 t

/-- Side effects and idempotency (20_memory.md R57). A read whose index and channel are legal writes only RDATA; one whose
are not writes only ERR and ERR_CODE. Repeating WRPIX, WRCH, FILL, RDPIX or RDCH leaves the same state; FADE and SHIFT
are not idempotent; TX leaves PB and adds 135 frames to the end of the trace each time. -/
def Obligations.RepeatedCommands : Prop :=
  (∀ (idx : BitVec 7) (ch : ChannelField) (i : Instr) (s t : State), i ∈ [Instr.rdpix idx, .rdch idx ch] →
      exec i s = .next t →
      (i.wellFormed = true → t = { s with rdata := t.rdata })
      ∧ (i.wellFormed = false → t = { s with err := t.err, errCode := t.errCode }))
  ∧ (∀ (idx : BitVec 7) (ch : ChannelField) (value : Byte) (colour : Pixel) (i : Instr) (s t : State),
      i ∈ [Instr.wrpix idx colour, .wrch idx ch value, .fill colour, .rdpix idx, .rdch idx ch] →
      exec i s = .next t → exec i t = .next t)
  ∧ (∃ s t u, exec (.fade .red 1 .modular) s = .next t ∧ exec (.fade .red 1 .modular) t = .next u ∧ u.pb ≠ t.pb)
  ∧ (∃ s t u, exec (.shift .positive .full) s = .next t ∧ exec (.shift .positive .full) t = .next u ∧ u.pb ≠ t.pb)
  ∧ ∀ (mm : MappingMode) (s : State), s.err = false →
      ∃ t u, exec (.tx mm) s = .next t ∧ exec (.tx mm) t = .next u ∧ t.pb = s.pb ∧ u.pb = s.pb
        ∧ s.wire <+: t.wire ∧ t.wire.length = s.wire.length + 135
        ∧ t.wire <+: u.wire ∧ u.wire.length = t.wire.length + 135

/-! ### Transforms -/

/-- FILL gives every pixel the colour and changes nothing else (41_transform.md R120). -/
def Obligations.FillSetsEveryPixel : Prop :=
  ∀ (colour : Pixel) (s : State), s.err = false →
    ∃ t, exec (.fill colour) s = .next t ∧ (∀ i : Fin 42, t.pixel i = colour) ∧ t = { s with pb := t.pb }

/-- The fade datapath is exact (41_transform.md R123): Modular is the sum modulo 256, Constrained the sum clamped to
0..255. -/
def Obligations.FadeDatapathIsExact : Prop :=
  ∀ (v : Byte) (amount : BitVec 9),
    ((fade8 v amount .modular).toNat : Int) = ((v.toNat : Int) + amount.toInt) % 256
    ∧ ((fade8 v amount .constrained).toNat : Int) = max 0 (min 255 ((v.toNat : Int) + amount.toInt))

/-- FADE with a named channel puts `fade8` of the old value into that channel of every pixel and changes nothing else
(41_transform.md R121). -/
def Obligations.FadeChangesOneChannelOfEveryPixel : Prop :=
  ∀ (ch : ChannelField) (amount : BitVec 9) (fm : FadeMode) (s : State) (c : Channel),
    s.err = false → channelOf ch = some c →
    ∃ t, exec (.fade ch amount fm) s = .next t
      ∧ (∀ i : Fin 42, t.channel i c = fade8 (s.channel i c) amount fm)
      ∧ (∀ (i : Fin 42) (d : Channel), d ≠ c → t.channel i d = s.channel i d) ∧ t = { s with pb := t.pb }

/-- SHIFT in Full mode: one ring of 42 (41_transform.md R122, R124). -/
def Obligations.ShiftFullRotatesTheRing : Prop :=
  ∀ s : State, s.err = false →
    (∃ t, exec (.shift .positive .full) s = .next t ∧ t = { s with pb := t.pb }
      ∧ ∀ i j : Fin 42, (j.val : Int) = ((i.val : Int) - 1) % 42 → t.pixel i = s.pixel j)
    ∧ ∃ t, exec (.shift .negative .full) s = .next t ∧ t = { s with pb := t.pb }
      ∧ ∀ i j : Fin 42, (j.val : Int) = ((i.val : Int) + 1) % 42 → t.pixel i = s.pixel j

/-- SHIFT in Mirrored mode: two rings of 21, turning opposite ways (41_transform.md R122, R125). -/
def Obligations.ShiftMirroredRotatesEachArm : Prop :=
  ∀ s : State, s.err = false →
    (∃ t, exec (.shift .positive .mirrored) s = .next t ∧ t = { s with pb := t.pb }
      ∧ (∀ i j : Fin 42, i.val < 21 → (j.val : Int) = ((i.val : Int) - 1) % 21 → t.pixel i = s.pixel j)
      ∧ ∀ i j : Fin 42, 21 ≤ i.val → (j.val : Int) = 21 + ((i.val : Int) - 21 + 1) % 21 → t.pixel i = s.pixel j)
    ∧ ∃ t, exec (.shift .negative .mirrored) s = .next t ∧ t = { s with pb := t.pb }
      ∧ (∀ i j : Fin 42, i.val < 21 → (j.val : Int) = ((i.val : Int) + 1) % 21 → t.pixel i = s.pixel j)
      ∧ ∀ i j : Fin 42, 21 ≤ i.val → (j.val : Int) = 21 + ((i.val : Int) - 21 - 1) % 21 → t.pixel i = s.pixel j

/-- "Every SHIFT, in both modes and both directions, is a permutation of the indices. It preserves the multiset of pixel
values in `PB`. A Mirrored SHIFT also preserves the multiset of each arm separately" (41_transform.md R126). -/
def Obligations.ShiftPreservesTheMultiset : Prop :=
  (∀ (dir : Direction) (mm : MappingMode), Function.Bijective (shiftSource dir mm))
  ∧ ∀ (dir : Direction) (s : State), s.err = false →
    (∀ mm, ∃ t, exec (.shift dir mm) s = .next t ∧ t.pb.toList.Perm s.pb.toList)
    ∧ ∃ t, exec (.shift dir .mirrored) s = .next t ∧ (t.pb.toList.take 21).Perm (s.pb.toList.take 21)
      ∧ (t.pb.toList.drop 21).Perm (s.pb.toList.drop 21)

/-- The inverse and period laws of SHIFT (41_transform.md R127). -/
def Obligations.ShiftInverseAndPeriod : Prop :=
  ∀ s : State, s.err = false →
    (∀ mm : MappingMode, ∃ t u, exec (.shift .positive mm) s = .next t ∧ exec (.shift .negative mm) t = .next s
      ∧ exec (.shift .negative mm) s = .next u ∧ exec (.shift .positive mm) u = .next s)
    ∧ (∀ dir : Direction, repeatExec 42 (.shift dir .full) s = .next s
      ∧ repeatExec 21 (.shift dir .mirrored) s = .next s)
    ∧ ∀ k : Nat,
      (∃ t, repeatExec k (.shift .positive .full) s = .next t
        ∧ ∀ i j : Fin 42, (j.val : Int) = ((i.val : Int) - k) % 42 → t.pixel i = s.pixel j)
      ∧ ∃ t, repeatExec k (.shift .negative .full) s = .next t
        ∧ ∀ i j : Fin 42, (j.val : Int) = ((i.val : Int) + k) % 42 → t.pixel i = s.pixel j

/-- The laws of FADE (41_transform.md R128): the range, the Modular period and inverse, and the failure of the inverse
where Constrained clamped. -/
def Obligations.FadePeriodAndInverse : Prop :=
  (∀ (v : Byte) (amount : BitVec 9), (fade8 v amount .constrained).toNat ≤ 255)
  ∧ (∀ (ch : ChannelField) (amount : BitVec 9) (s : State), s.err = false → ch ≠ .noChannel →
      repeatExec (256 / Nat.gcd amount.toInt.natAbs 256) (.fade ch amount .modular) s = .next s)
  ∧ (∀ (ch : ChannelField) (amount : BitVec 9) (s : State), s.err = false → ch ≠ .noChannel →
      amount.toInt ≠ -256 →
      ∃ t, exec (.fade ch amount .modular) s = .next t ∧ exec (.fade ch (-amount) .modular) t = .next s)
  ∧ ∀ (v : Byte) (amount : BitVec 9), amount.toInt ≠ -256 →
      (v.toNat : Int) + amount.toInt < 0 ∨ 255 < (v.toNat : Int) + amount.toInt →
      fade8 (fade8 v amount .constrained) (-amount) .constrained ≠ v

/-- "after `FILL C`, reading every pixel with RDPIX gives C, for all indices 0..41" (41_transform.md R129). -/
def Obligations.FillThenReadGivesTheColour : Prop :=
  ∀ (colour : Pixel) (idx : BitVec 7) (s : State), s.err = false → idx.toNat < 42 →
    ∃ t u, exec (.fill colour) s = .next t ∧ exec (.rdpix idx) t = .next u ∧ u.rdata = packColour colour

/-- Mirror symmetry (41_transform.md R130): FILL makes it, FADE and Mirrored SHIFT keep it, a Full SHIFT in general does
not. -/
def Obligations.MirrorSymmetryIsKept : Prop :=
  (∀ (colour : Pixel) (s t : State), s.err = false → exec (.fill colour) s = .next t → MirrorSymmetric t.pb)
  ∧ (∀ (i : Instr) (s t : State),
      (∃ ch amount fm, i = .fade ch amount fm) ∨ (∃ dir, i = .shift dir .mirrored) →
      MirrorSymmetric s.pb → exec i s = .next t → MirrorSymmetric t.pb)
  ∧ ∃ s t, MirrorSymmetric s.pb ∧ exec (.shift .positive .full) s = .next t ∧ ¬ MirrorSymmetric t.pb

/-! ### Transmitter -/

/-- The whole slot map (42_transmit.md R155, its pixel columns). -/
def Obligations.SlotMapTable : Prop :=
  slots.map (fun s => (slotMap .mirrored s).map Fin.val)
    = [[20, 19, 18, 17, 16], [15, 14, 13, 12, 11], [10, 9, 8, 7, 6], [5, 4, 3, 2, 1], [0, 0],
       [20, 19, 18, 17, 16], [15, 14, 13, 12, 11], [10, 9, 8, 7, 6], [5, 4, 3, 2, 1]]
  ∧ slots.map (fun s => (slotMap .full s).map Fin.val)
    = [[20, 19, 18, 17, 16], [15, 14, 13, 12, 11], [10, 9, 8, 7, 6], [5, 4, 3, 2, 1], [0, 41],
       [21, 22, 23, 24, 25], [26, 27, 28, 29, 30], [31, 32, 33, 34, 35], [36, 37, 38, 39, 40]]

/-- Coverage (42_transmit.md R156): Full sends every index once; Mirrored sends 0..20 twice and 21..41 never, so arm B
has no effect on the wire. -/
def Obligations.SlotMapCoverage : Prop :=
  (∀ i : Fin 42, (slots.flatMap (slotMap .full)).count i = 1)
  ∧ (∀ i : Fin 42, (slots.flatMap (slotMap .mirrored)).count i = if i.val ≤ 20 then 2 else 0)
  ∧ (slots.flatMap (slotMap .full)).length = 42 ∧ (slots.flatMap (slotMap .mirrored)).length = 42
  ∧ ∀ pb pb' : Vector Pixel 42, (∀ i : Fin 42, i.val ≤ 20 → pb[i] = pb'[i]) →
      txBytes pb .mirrored = txBytes pb' .mirrored

/-- `TxBytes` (42_transmit.md R157): 135 frames; slot `s` opens with its address byte at its place (R159), and the `k`-th
pixel of its list follows as green, blue, red data bytes. -/
def Obligations.TxBytesAddressThenGreenBlueRed : Prop :=
  ∀ (pb : Vector Pixel 42) (mm : MappingMode), (txBytes pb mm).length = 135
    ∧ ∀ (s : Fin 9) (start : Nat), [0, 16, 32, 48, 64, 71, 87, 103, 119][s.val]? = some start →
      (txBytes pb mm)[start]? = some ⟨true, Config.chipAddr s⟩
      ∧ ∀ (k : Nat) (p : Fin 42), (slotMap mm s)[k]? = some p →
        (txBytes pb mm)[start + 1 + 3 * k]? = some ⟨false, pb[p].g⟩
        ∧ (txBytes pb mm)[start + 2 + 3 * k]? = some ⟨false, pb[p].b⟩
        ∧ (txBytes pb mm)[start + 3 + 3 * k]? = some ⟨false, pb[p].r⟩

/-- The frame's size (42_transmit.md R159): 16 frames an arm slot and 7 the end-cap, in all 135, of them 9 address frames,
at the nine positions, and 126 data frames. -/
def Obligations.TxFrameSize : Prop :=
  ∀ (pb : Vector Pixel 42) (mm : MappingMode),
    (∀ s : Fin 9, (slotFrames pb mm s).length = if s.val = 4 then 7 else 16)
    ∧ (txBytes pb mm).length = Config.frameBytes
    ∧ (txBytes pb mm).countP (fun f => f.sel) = 9 ∧ (txBytes pb mm).countP (fun f => !f.sel) = 42 * 3
    ∧ ∀ (n : Nat) (f : WireFrame), (txBytes pb mm)[n]? = some f →
      (f.sel = true ↔ n ∈ [0, 16, 32, 48, 64, 71, 87, 103, 119])

/-- TX appends the whole frame to the trace (42_transmit.md R158). PB, RDATA, ERR and ERR_CODE, the Engine state and the
rest of the state stay; of the hidden transmit state nothing is said (log 5), nor of the count of free draws
(log 14). -/
def Obligations.TxAppendsOneFrame : Prop :=
  ∀ (mm : MappingMode) (s : State), s.err = false →
    ∃ t, exec (.tx mm) s = .next t ∧ t.wire = s.wire ++ txBytes s.pb mm
      ∧ (∀ (i : Fin 42) (c : Channel), t.channel i c = s.channel i c)
      ∧ t = { s with wire := t.wire, seq := t.seq, draws := t.draws }

/-- The 11-bit wire frame (42_transmit.md R160): start bit 0, the byte least significant bit first, the select bit, stop
bit 1. -/
def Obligations.WireFrameLayout : Prop :=
  ∀ (sel : Bool) (b : Byte),
    (frameBits ⟨sel, b⟩).getLsbD 0 = false
    ∧ (∀ j : Nat, j < 8 → (frameBits ⟨sel, b⟩).getLsbD (1 + j) = b.getLsbD j)
    ∧ (frameBits ⟨sel, b⟩).getLsbD 9 = sel ∧ (frameBits ⟨sel, b⟩).getLsbD 10 = true
    ∧ (frameBits ⟨sel, b⟩).toNat = 0x400 ||| (sel.toNat <<< 9) ||| (b.toNat <<< 1)

/-- The wire frame loses nothing: the bits on the line give the frame back. -/
def Obligations.WireFrameIsReadable : Prop :=
  ∀ f : WireFrame, frameOfBits (frameBits f) = f

/-- The Mirrored-to-Full relation (42_transmit.md R168). -/
def Obligations.MirroredFrameIsFullFrameOfTheMirror : Prop :=
  (∀ (pb : Vector Pixel 42) (j : Fin 42),
      (mirrorBuffer pb)[j] = if j.val ≤ 20 then pb[j] else pb[mirrorIndex j])
  ∧ (∀ j : Fin 42, (mirrorIndex j).val = 41 - j.val)
  ∧ (∀ pb : Vector Pixel 42, txBytes pb .mirrored = txBytes (mirrorBuffer pb) .full)
  ∧ ∀ pb : Vector Pixel 42, MirrorSymmetric pb → txBytes pb .mirrored = txBytes pb .full

/-- The end-to-end properties (42_transmit.md R169): Mirrored slots 5+k carry slot k's data bytes and the end-cap two
equal triples; Full slots 5..8 carry pixels 21..40 ascending, no index twice; after FILL every triple is (G, B, R). -/
def Obligations.TxEndToEnd : Prop :=
  (∀ (pb : Vector Pixel 42) (k : Fin 9) (j : Fin 9), k.val < 4 → j.val = 5 + k.val →
      (slotFrames pb .mirrored j).tail = (slotFrames pb .mirrored k).tail
      ∧ (slotFrames pb .mirrored k).tail.length = 15)
  ∧ (∀ pb : Vector Pixel 42,
      (slotFrames pb .mirrored 4).tail.take 3 = (slotFrames pb .mirrored 4).tail.drop 3)
  ∧ (([5, 6, 7, 8] : List (Fin 9)).flatMap (slotMap .full)).map Fin.val = List.range' 21 20
  ∧ (slots.flatMap (slotMap .full)).Nodup
  ∧ ∀ (colour : Pixel) (mm : MappingMode) (s : State), s.err = false →
      ∃ t u, exec (.fill colour) s = .next t ∧ exec (.tx mm) t = .next u
        ∧ u.wire = s.wire ++ slots.flatMap fun x =>
            addressFrame x :: (List.replicate (if x.val = 4 then 2 else 5)
              [⟨false, colour.g⟩, ⟨false, colour.b⟩, ⟨false, colour.r⟩]).flatten

/-- The idle line (42_transmit.md R162): 1 in INIT, IDLE and EXEC, and in every legal state with ERR = 1. -/
def Obligations.LineIdlesHigh : Prop :=
  ∀ s : State, (s.engine ≠ .tx → s.serOut = true) ∧ (Legal s → s.err = true → s.serOut = true)

/-! ### The clock level -/

/-- A TX on the wire, cycle by cycle (42_transmit.md R163): for all `TX_START_LATENCY + 1485 * BIT_PERIOD` cycles from the
accepting edge, whatever the host does on the command port, `cmd_ready` is 0, TXACT is 1 and the line is at the level
the rule gives (cycles counted as log 11 says); before the first start bit it is at the idle level (log 23). -/
def Obligations.TxWaveform : Prop :=
  ∀ (s : State) (w : Word) (mm : MappingMode) (ps : List Pins), s.engine = .idle → s.err = false →
    decode w = .ok (.tx mm) → NoReset ps → ps.length < Config.txStartLatency + 1485 * Config.bitPeriod →
    ∃ t, clockRun (offerEdge w :: ps) s = .next t ∧ t.cmdReady = false ∧ t.txact = true
      ∧ t.serOut = lineLevel (txBytes s.pb mm) ps.length

/-- The clock level refines the transaction, for TX (00_scope.md R7; 42_transmit.md R163): at cycle `TX_START_LATENCY +
1485 * BIT_PERIOD` the command is over and what can be observed is what `exec` gives (log 11). -/
def Obligations.TxClockRefinesTransaction : Prop :=
  ∀ (s : State) (w : Word) (mm : MappingMode) (ps : List Pins), s.engine = .idle → s.err = false →
    decode w = .ok (.tx mm) → NoReset ps → ps.length = Config.txStartLatency + 1485 * Config.bitPeriod →
    ∃ t u, clockRun (offerEdge w :: ps) s = .next t ∧ exec (.tx mm) s = .next u ∧ t.cmdReady = true
      ∧ t.serOut = true ∧ t.observe = u.observe

/-- The clock level refines the transaction, for every other word, a discarded or illegal one included (10_state.md R30;
70_reset_and_hazards.md R239, R241): not ready for `EXEC_LATENCY` cycles, then ready with the transaction's observable
state (log 11). -/
def Obligations.ExecClockRefinesTransaction : Prop :=
  ∀ (s : State) (w : Word) (ps : List Pins), s.engine = .idle → entersTx w s = none → NoReset ps →
    (ps.length < Config.execLatency s.err w →
      ∃ t, clockRun (offerEdge w :: ps) s = .next t ∧ t.cmdReady = false ∧ t.txact = false ∧ t.serOut = true)
    ∧ (ps.length = Config.execLatency s.err w →
      ∃ t u, clockRun (offerEdge w :: ps) s = .next t ∧ runWord w s = .next u ∧ t.cmdReady = true
        ∧ t.observe = u.observe)

/-- What a waiting step skips is clock edges (10_state.md R30; 70_reset_and_hazards.md R241; log 21): from every legal
state some number of edges without a reset leaves the observable state that `runToIdle` gives, ready. -/
def Obligations.WaitingIsClockEdges : Prop :=
  ∀ s : State, Legal s → ∃ n : Nat, ∀ ps : List Pins, NoReset ps → ps.length = n →
    ∃ t u, clockRun ps s = .next t ∧ runToIdle s = .next u ∧ u.cmdReady = true ∧ t.observe = u.observe

/-- The Engine's transitions on an edge without reset (10_state.md R30): no others than INIT to IDLE, IDLE to EXEC and
IDLE to TX on an accepted word, EXEC to IDLE and TX to IDLE; TX only for a TX accepted with ERR = 0. -/
def Obligations.EngineTransitions : Prop :=
  ∀ (p : Pins) (s t : State), p.rst = false → clockEdge p s = .next t → t.engine ≠ s.engine →
    (s.engine = .init ∧ t.engine = .idle ∧ ∀ i : Fin 42, t.pixel i = black)
    ∨ (s.engine = .idle ∧ t.engine = .tx ∧ p.cmdValid = true ∧ s.err = false
        ∧ ∃ mm, decode p.cmdData = .ok (.tx mm))
    ∨ (s.engine = .idle ∧ t.engine = .exec ∧ p.cmdValid = true
        ∧ (s.err = true ∨ ∀ mm, decode p.cmdData ≠ .ok (.tx mm)))
    ∨ (s.engine = .exec ∧ t.engine = .idle) ∨ (s.engine = .tx ∧ t.engine = .idle)

/-- A word is accepted only with `rst` = 0, `cmd_valid` = 1 and `cmd_ready` = 1 (10_state.md R33; 70_reset_and_hazards.md
R231): otherwise `cmd_data` has no effect, and an IDLE Engine that is offered nothing stays as it is. -/
def Obligations.WordIgnoredUnlessAccepted : Prop :=
  ∀ (p : Pins) (s : State),
    (p.rst = true ∨ p.cmdValid = false ∨ s.cmdReady = false →
      ∀ w : Word, clockEdge { p with cmdData := w } s = clockEdge p s)
    ∧ (p.rst = true ∨ s.cmdReady = false → ∀ v : Bool, clockEdge { p with cmdValid := v } s = clockEdge p s)
    ∧ (p.rst = false → p.cmdValid = false → s.engine = .idle → clockEdge p s = .next s)

/-- STATUS (10_state.md R24): its fields at their places, the reserved bits 0, BUSY the negation of `cmd_ready`. -/
def Obligations.StatusLayout : Prop :=
  ∀ s : State, s.status.getLsbD 0 = !s.cmdReady ∧ s.status.getLsbD 1 = s.err
    ∧ s.status.getLsbD 2 = decide (s.engine = .tx) ∧ s.status.getLsbD 3 = false
    ∧ s.status.extractLsb' 4 4 = s.errCode ∧ s.status.extractLsb' 8 8 = 0

/-- The ports before and after a command completes (70_reset_and_hazards.md R236): while `cmd_ready` is 1 they show RDATA
and STATUS; in EXEC `rdata` shows the old value or the one the command leaves, and `status` shows BUSY = 1, TXACT = 0 and
the old ERR and ERR_CODE or the ones the command leaves. That the two change on the port together, both old or both new,
is the model's DESIGN CHOICE (log 7): R236 says only that they show by the time `cmd_ready` returns. -/
def Obligations.ReadPortsSettleWhenReady : Prop :=
  ∀ s : State, (s.cmdReady = true → s.rdataPort = s.rdata ∧ s.statusPort = s.status)
    ∧ (s.engine = .exec → ∃ t, finishExec s = .next t ∧ (s.rdataPort = s.rdata ∨ s.rdataPort = t.rdata)
        ∧ (s.statusPort = statusWord true s.err false s.errCode ∨ s.statusPort = statusWord true t.err false t.errCode))

/-! ### Reset -/

/-- The state after reset (10_state.md R35): in INIT with `cmd_ready` 0, STATUS 0x0001, RDATA 0, the line idle and W empty;
when INIT has ended, `cmd_ready` 1, STATUS 0 and every pixel black. -/
def Obligations.ResetValues : Prop :=
  State.reset.engine = .init ∧ State.reset.cmdReady = false ∧ State.reset.status = 0x0001
  ∧ State.reset.rdata = 0 ∧ State.reset.err = false ∧ State.reset.errCode = 0 ∧ State.reset.txact = false
  ∧ State.reset.serOut = true ∧ State.reset.wire = []
  ∧ ∃ t, step State.reset = .next t ∧ t.engine = .idle ∧ t.cmdReady = true ∧ t.status = 0 ∧ t.rdata = 0
    ∧ t.serOut = true ∧ t.wire = [] ∧ ∀ i : Fin 42, t.pixel i = black

/-- A reset edge, from every state and whatever is offered (70_reset_and_hazards.md R230, R231), then INIT: not ready for
`RESET_INIT_CYCLES` edges after `rst` falls, then IDLE with a black buffer (cycles counted as log 10 says). That a reset
edge outside TX, a later edge of a held reset among them, leaves W empty is log 8's reading. -/
def Obligations.ResetFromAnyState : Prop :=
  ∀ (p : Pins) (s : State), p.rst = true →
    ∃ t, clockEdge p s = .next t ∧ t.engine = .init ∧ t.status = 0x0001 ∧ t.cmdReady = false ∧ t.rdata = 0
      ∧ t.err = false ∧ t.errCode = 0 ∧ t.serOut = true ∧ (s.engine ≠ .tx → t.wire = [])
      ∧ ∀ ps : List Pins, NoReset ps →
        (ps.length ≤ Config.resetInitCycles → ∃ u, clockRun ps t = .next u ∧ u.cmdReady = false)
        ∧ (ps.length = Config.resetInitCycles + 1 →
          ∃ u, clockRun ps t = .next u ∧ u.cmdReady = true ∧ u.status = 0 ∧ u.rdata = 0
            ∧ ∀ i : Fin 42, u.pixel i = black)

/-- One reset edge in the middle of a TX (70_reset_and_hazards.md R232): the line goes idle, and the trace holds the frames that
were whole by the reset edge, a first part of the TX's frame (what the trace holds is logs 8 and 9's reading). -/
def Obligations.ResetCutsTxAfterWholeFrames : Prop :=
  ∀ (s : State) (w : Word) (mm : MappingMode) (ps : List Pins) (p : Pins), s.engine = .idle → s.err = false →
    decode w = .ok (.tx mm) → NoReset ps → ps.length < Config.txStartLatency + 1485 * Config.bitPeriod →
    p.rst = true →
    ∃ t u, clockRun (offerEdge w :: ps) s = .next t ∧ clockEdge p t = .next u ∧ u.serOut = true
      ∧ u.cmdReady = false
      ∧ u.wire = (txBytes s.pb mm).take ((ps.length + 1 - Config.txStartLatency) / (11 * Config.bitPeriod))

/-- The same as one transaction (70_reset_and_hazards.md R232): whatever the free draw, the trace holds a first part of the
frame; a command that is no TX leaves none of its effect (R230; log 8). -/
def Obligations.CutCommandLeavesAFirstPart : Prop :=
  ∀ (s : State) (w : Word) (rest : List HostAction), s.engine = .idle → s.errCode.toNat ≤ 3 →
    s.inputs = .cutCommand w :: rest →
    ∃ t, step s = .next t ∧ t.engine = .init ∧ t.rdata = 0 ∧ t.err = false ∧ t.errCode = 0 ∧ t.serOut = true
      ∧ t.inputs = rest ∧ (entersTx w s = none → t.wire = [])
      ∧ ∀ mm, entersTx w s = some mm → t.wire <+: txBytes s.pb mm

/-! ### Invariant and safety -/

/-- The legal states hold at reset (10_state.md R35). -/
def Obligations.LegalAtReset : Prop := Legal State.reset

/-- Every step from a legal state that answers a next state answers a legal one: ERR_CODE stays 0..3 and is 0 exactly
while ERR = 0 (10_state.md R24; 60_exceptions.md R200), the waits stay within their parameters, and a TX in progress has
its frame in `shreg` and its past frames in the trace (10_state.md R30, R31). -/
def Obligations.LegalKeptByEveryStep : Prop :=
  ∀ s t : State, Legal s → step s = .next t → Legal t

/-- From a legal state no number of steps ends in a fault or a refusal, whatever the host does: the one stop of the model is
an ERR_CODE that is never produced (60_exceptions.md R200; 93_implementation_defined.md section 3). -/
def Obligations.LegalStatesRunOn : Prop :=
  ∀ (k : Nat) (s : State), Legal s → RunsOn k s

/-- A state whose ERR_CODE holds 4..15 is stuck (93_implementation_defined.md section 3), and only a reset gets it out
(70_reset_and_hazards.md R230; log 13). -/
def Obligations.ReservedErrCodeIsStuck : Prop :=
  ∀ s : State, 3 < s.errCode.toNat →
    (nextIsReset s = false → step s = .fault .reservedErrCode)
    ∧ (nextIsReset s = true → ∃ t, step s = .next t ∧ t.errCode = 0 ∧ t.engine = .init)

/-- ERR and ERR_CODE are sticky on the `status` port as in the register (10_state.md R24): once the port shows ERR = 1, in
EXEC before the command completes too (70_reset_and_hazards.md R236), no step that does not end in INIT takes it back or
changes the code beside it. That the code beside an ERR shown in EXEC is already the command's, so that it need not change,
is the model's DESIGN CHOICE that the two appear on the port together (log 7). -/
def Obligations.StatusPortIsSticky : Prop :=
  ∀ s t : State, step s = .next t → t.engine ≠ .init → s.statusPort.getLsbD 1 = true →
    t.statusPort.getLsbD 1 = true ∧ t.statusPort.extractLsb' 4 4 = s.statusPort.extractLsb' 4 4
end

