-- ==== Sys2Proof/Laws/State.lean ====
section
/-! SUPPORT. One lemma per field of State per update, true by `rfl`, so that no proof unfolds a record update. -/

namespace Sys2Proof.Machine

/-! ### setPixel -/

@[simp] theorem setPixel_pb (s : State) (i : Fin 42) (p : Pixel) : (s.setPixel i p).pb = s.pb.set i p := rfl
@[simp] theorem setPixel_rdata (s : State) (i : Fin 42) (p : Pixel) : (s.setPixel i p).rdata = s.rdata := rfl
@[simp] theorem setPixel_err (s : State) (i : Fin 42) (p : Pixel) : (s.setPixel i p).err = s.err := rfl
@[simp] theorem setPixel_errCode (s : State) (i : Fin 42) (p : Pixel) : (s.setPixel i p).errCode = s.errCode := rfl
@[simp] theorem setPixel_engine (s : State) (i : Fin 42) (p : Pixel) : (s.setPixel i p).engine = s.engine := rfl
@[simp] theorem setPixel_seq (s : State) (i : Fin 42) (p : Pixel) : (s.setPixel i p).seq = s.seq := rfl
@[simp] theorem setPixel_wire (s : State) (i : Fin 42) (p : Pixel) : (s.setPixel i p).wire = s.wire := rfl
@[simp] theorem setPixel_cmd (s : State) (i : Fin 42) (p : Pixel) : (s.setPixel i p).cmd = s.cmd := rfl
@[simp] theorem setPixel_timer (s : State) (i : Fin 42) (p : Pixel) : (s.setPixel i p).timer = s.timer := rfl
@[simp] theorem setPixel_draws (s : State) (i : Fin 42) (p : Pixel) : (s.setPixel i p).draws = s.draws := rfl
@[simp] theorem setPixel_inputs (s : State) (i : Fin 42) (p : Pixel) : (s.setPixel i p).inputs = s.inputs := rfl

/-! ### setBuffer -/

@[simp] theorem setBuffer_pb (s : State) (f : Fin 42 → Pixel) : (s.setBuffer f).pb = bufferOf f := rfl
@[simp] theorem setBuffer_rdata (s : State) (f : Fin 42 → Pixel) : (s.setBuffer f).rdata = s.rdata := rfl
@[simp] theorem setBuffer_err (s : State) (f : Fin 42 → Pixel) : (s.setBuffer f).err = s.err := rfl
@[simp] theorem setBuffer_errCode (s : State) (f : Fin 42 → Pixel) : (s.setBuffer f).errCode = s.errCode := rfl
@[simp] theorem setBuffer_engine (s : State) (f : Fin 42 → Pixel) : (s.setBuffer f).engine = s.engine := rfl
@[simp] theorem setBuffer_seq (s : State) (f : Fin 42 → Pixel) : (s.setBuffer f).seq = s.seq := rfl
@[simp] theorem setBuffer_wire (s : State) (f : Fin 42 → Pixel) : (s.setBuffer f).wire = s.wire := rfl
@[simp] theorem setBuffer_cmd (s : State) (f : Fin 42 → Pixel) : (s.setBuffer f).cmd = s.cmd := rfl
@[simp] theorem setBuffer_timer (s : State) (f : Fin 42 → Pixel) : (s.setBuffer f).timer = s.timer := rfl
@[simp] theorem setBuffer_draws (s : State) (f : Fin 42 → Pixel) : (s.setBuffer f).draws = s.draws := rfl
@[simp] theorem setBuffer_inputs (s : State) (f : Fin 42 → Pixel) : (s.setBuffer f).inputs = s.inputs := rfl

/-! ### setRdata -/

@[simp] theorem setRdata_pb (s : State) (v : BitVec 24) : (s.setRdata v).pb = s.pb := rfl
@[simp] theorem setRdata_rdata (s : State) (v : BitVec 24) : (s.setRdata v).rdata = v := rfl
@[simp] theorem setRdata_err (s : State) (v : BitVec 24) : (s.setRdata v).err = s.err := rfl
@[simp] theorem setRdata_errCode (s : State) (v : BitVec 24) : (s.setRdata v).errCode = s.errCode := rfl
@[simp] theorem setRdata_engine (s : State) (v : BitVec 24) : (s.setRdata v).engine = s.engine := rfl
@[simp] theorem setRdata_seq (s : State) (v : BitVec 24) : (s.setRdata v).seq = s.seq := rfl
@[simp] theorem setRdata_wire (s : State) (v : BitVec 24) : (s.setRdata v).wire = s.wire := rfl
@[simp] theorem setRdata_cmd (s : State) (v : BitVec 24) : (s.setRdata v).cmd = s.cmd := rfl
@[simp] theorem setRdata_timer (s : State) (v : BitVec 24) : (s.setRdata v).timer = s.timer := rfl
@[simp] theorem setRdata_draws (s : State) (v : BitVec 24) : (s.setRdata v).draws = s.draws := rfl
@[simp] theorem setRdata_inputs (s : State) (v : BitVec 24) : (s.setRdata v).inputs = s.inputs := rfl

/-! ### raiseError -/

@[simp] theorem raiseError_pb (code : ErrorCode) (s : State) : (raiseError code s).pb = s.pb := rfl
@[simp] theorem raiseError_rdata (code : ErrorCode) (s : State) : (raiseError code s).rdata = s.rdata := rfl
@[simp] theorem raiseError_err (code : ErrorCode) (s : State) : (raiseError code s).err = true := rfl
@[simp] theorem raiseError_errCode (code : ErrorCode) (s : State) : (raiseError code s).errCode = errorBits code := rfl
@[simp] theorem raiseError_engine (code : ErrorCode) (s : State) : (raiseError code s).engine = s.engine := rfl
@[simp] theorem raiseError_seq (code : ErrorCode) (s : State) : (raiseError code s).seq = s.seq := rfl
@[simp] theorem raiseError_wire (code : ErrorCode) (s : State) : (raiseError code s).wire = s.wire := rfl
@[simp] theorem raiseError_cmd (code : ErrorCode) (s : State) : (raiseError code s).cmd = s.cmd := rfl
@[simp] theorem raiseError_timer (code : ErrorCode) (s : State) : (raiseError code s).timer = s.timer := rfl
@[simp] theorem raiseError_draws (code : ErrorCode) (s : State) : (raiseError code s).draws = s.draws := rfl
@[simp] theorem raiseError_inputs (code : ErrorCode) (s : State) : (raiseError code s).inputs = s.inputs := rfl

/-! ### releaseSequencer -/

@[simp] theorem releaseSequencer_pb (s : State) : s.releaseSequencer.pb = s.pb := rfl
@[simp] theorem releaseSequencer_rdata (s : State) : s.releaseSequencer.rdata = s.rdata := rfl
@[simp] theorem releaseSequencer_err (s : State) : s.releaseSequencer.err = s.err := rfl
@[simp] theorem releaseSequencer_errCode (s : State) : s.releaseSequencer.errCode = s.errCode := rfl
@[simp] theorem releaseSequencer_engine (s : State) : s.releaseSequencer.engine = s.engine := rfl
@[simp] theorem releaseSequencer_seq (s : State) : s.releaseSequencer.seq = freeSequencer s.draws := rfl
@[simp] theorem releaseSequencer_wire (s : State) : s.releaseSequencer.wire = s.wire := rfl
@[simp] theorem releaseSequencer_cmd (s : State) : s.releaseSequencer.cmd = s.cmd := rfl
@[simp] theorem releaseSequencer_timer (s : State) : s.releaseSequencer.timer = s.timer := rfl
@[simp] theorem releaseSequencer_draws (s : State) : s.releaseSequencer.draws = s.draws + 1 := rfl
@[simp] theorem releaseSequencer_inputs (s : State) : s.releaseSequencer.inputs = s.inputs := rfl

/-! ### resetWith -/

@[simp] theorem resetWith_pb (sent : List WireFrame) (s : State) : (resetWith sent s).pb = bufferOf (Config.freeInitPixel s.draws) := rfl
@[simp] theorem resetWith_rdata (sent : List WireFrame) (s : State) : (resetWith sent s).rdata = 0 := rfl
@[simp] theorem resetWith_err (sent : List WireFrame) (s : State) : (resetWith sent s).err = false := rfl
@[simp] theorem resetWith_errCode (sent : List WireFrame) (s : State) : (resetWith sent s).errCode = 0 := rfl
@[simp] theorem resetWith_engine (sent : List WireFrame) (s : State) : (resetWith sent s).engine = .init := rfl
@[simp] theorem resetWith_seq (sent : List WireFrame) (s : State) : (resetWith sent s).seq = freeSequencer s.draws := rfl
@[simp] theorem resetWith_wire (sent : List WireFrame) (s : State) : (resetWith sent s).wire = sent := rfl
@[simp] theorem resetWith_cmd (sent : List WireFrame) (s : State) : (resetWith sent s).cmd = 0 := rfl
@[simp] theorem resetWith_timer (sent : List WireFrame) (s : State) : (resetWith sent s).timer = Config.resetInitCycles := rfl
@[simp] theorem resetWith_draws (sent : List WireFrame) (s : State) : (resetWith sent s).draws = s.draws + 1 := rfl
@[simp] theorem resetWith_inputs (sent : List WireFrame) (s : State) : (resetWith sent s).inputs = s.inputs := rfl

/-! ### finishInit -/

@[simp] theorem finishInit_pb (s : State) : (finishInit s).pb = bufferOf fun _ => black := rfl
@[simp] theorem finishInit_rdata (s : State) : (finishInit s).rdata = s.rdata := rfl
@[simp] theorem finishInit_err (s : State) : (finishInit s).err = s.err := rfl
@[simp] theorem finishInit_errCode (s : State) : (finishInit s).errCode = s.errCode := rfl
@[simp] theorem finishInit_engine (s : State) : (finishInit s).engine = .idle := rfl
@[simp] theorem finishInit_seq (s : State) : (finishInit s).seq = s.seq := rfl
@[simp] theorem finishInit_wire (s : State) : (finishInit s).wire = s.wire := rfl
@[simp] theorem finishInit_cmd (s : State) : (finishInit s).cmd = s.cmd := rfl
@[simp] theorem finishInit_timer (s : State) : (finishInit s).timer = 0 := rfl
@[simp] theorem finishInit_draws (s : State) : (finishInit s).draws = s.draws := rfl
@[simp] theorem finishInit_inputs (s : State) : (finishInit s).inputs = s.inputs := rfl

/-! ### offerWord -/

@[simp] theorem offerWord_pb (w : Word) (s : State) : (offerWord w s).pb = if s.engine = .init then bufferOf (fun _ => black) else s.pb := rfl
@[simp] theorem offerWord_rdata (w : Word) (s : State) : (offerWord w s).rdata = s.rdata := rfl
@[simp] theorem offerWord_err (w : Word) (s : State) : (offerWord w s).err = s.err := rfl
@[simp] theorem offerWord_errCode (w : Word) (s : State) : (offerWord w s).errCode = s.errCode := rfl
@[simp] theorem offerWord_engine (w : Word) (s : State) : (offerWord w s).engine = .idle := rfl
@[simp] theorem offerWord_seq (w : Word) (s : State) : (offerWord w s).seq = s.seq := rfl
@[simp] theorem offerWord_wire (w : Word) (s : State) : (offerWord w s).wire = s.wire := rfl
@[simp] theorem offerWord_cmd (w : Word) (s : State) : (offerWord w s).cmd = s.cmd := rfl
@[simp] theorem offerWord_timer (w : Word) (s : State) : (offerWord w s).timer = 0 := rfl
@[simp] theorem offerWord_draws (w : Word) (s : State) : (offerWord w s).draws = s.draws := rfl
@[simp] theorem offerWord_inputs (w : Word) (s : State) : (offerWord w s).inputs = .command w :: s.inputs := rfl

end Sys2Proof.Machine
end

