-- ==== Sys2Proof/Laws/Ops.lean ====
section
/-! SUPPORT. The laws of the shared operations: reads after writes, the operand checks, fault entry, discarding. -/

namespace Sys2Proof.Machine

/-! ### The buffer as a function of the index -/

theorem getElem_indices (i : Fin 42) : indices[i.val]? = some i := by
  revert i
  decide

@[simp] theorem getElem_bufferOf (f : Fin 42 → Pixel) (i : Nat) (h : i < 42) : (bufferOf f)[i] = f ⟨i, h⟩ := by
  have hi : indices[i]? = some ⟨i, h⟩ := getElem_indices ⟨i, h⟩
  obtain ⟨hl, e⟩ := List.getElem?_eq_some_iff.mp hi
  simp [bufferOf, e]

/-! ### Channels of a pixel -/

@[simp] theorem channelValue_setChannel_same (p : Pixel) (c : Channel) (v : Byte) :
    channelValue (setChannel p c v) c = v := by
  cases c <;> rfl

theorem channelValue_setChannel_other (p : Pixel) {c d : Channel} (v : Byte) (h : d ≠ c) :
    channelValue (setChannel p c v) d = channelValue p d := by
  cases c <;> cases d <;> first | rfl | exact absurd rfl h

/-- Two pixels with the same three channels are the same. -/
theorem pixel_ext_channels {p q : Pixel} (h : ∀ c, channelValue p c = channelValue q c) : p = q := by
  obtain ⟨pr, pg, pb⟩ := p
  obtain ⟨qr, qg, qb⟩ := q
  have hr := h .red
  have hg := h .green
  have hb := h .blue
  simp_all [channelValue]

@[simp] theorem setChannel_channelValue (p : Pixel) (c : Channel) : setChannel p c (channelValue p c) = p := by
  cases c <;> rfl

@[simp] theorem setChannel_setChannel (p : Pixel) (c : Channel) (v w : Byte) :
    setChannel (setChannel p c v) c w = setChannel p c w := by
  cases c <;> rfl

/-! ### Pixels of the buffer: a read after a write gives what was written, and other places are left alone -/

@[simp] theorem pixel_setPixel_same (s : State) (i : Fin 42) (p : Pixel) : (s.setPixel i p).pixel i = p := by
  simp [State.pixel]

theorem pixel_setPixel_other (s : State) {i j : Fin 42} (p : Pixel) (h : j ≠ i) :
    (s.setPixel i p).pixel j = s.pixel j := by
  have : i.val ≠ j.val := fun e => h (Fin.ext e.symm)
  simp [State.pixel, Vector.getElem_set_ne, this]

@[simp] theorem pixel_setBuffer (s : State) (f : Fin 42 → Pixel) (i : Fin 42) : (s.setBuffer f).pixel i = f i := by
  simp [State.pixel]

@[simp] theorem pixel_setRdata (s : State) (v : BitVec 24) (i : Fin 42) : (s.setRdata v).pixel i = s.pixel i := rfl

@[simp] theorem pixel_raiseError (code : ErrorCode) (s : State) (i : Fin 42) :
    (raiseError code s).pixel i = s.pixel i := rfl

@[simp] theorem pixel_finishInit (s : State) (i : Fin 42) : (finishInit s).pixel i = black := by
  simp [State.pixel]

/-- Two buffers with the same pixels are the same data. -/
theorem buffer_ext {a b : Vector Pixel 42} (h : ∀ i : Fin 42, a[i] = b[i]) : a = b :=
  Vector.ext fun i hi => h ⟨i, hi⟩

/-- Writing every pixel back leaves the state as it is. -/
@[simp] theorem setBuffer_pixel (s : State) : s.setBuffer s.pixel = s := by
  have : bufferOf s.pixel = s.pb := buffer_ext fun i => by simp [State.pixel]
  simp [State.setBuffer, this]

/-- A second write of the whole buffer hides the first. -/
@[simp] theorem setBuffer_setBuffer (s : State) (f g : Fin 42 → Pixel) :
    (s.setBuffer f).setBuffer g = s.setBuffer g := rfl

/-! ### Operand fields -/

theorem indexOf_eq_some {idx : BitVec 7} {i : Fin 42} : indexOf idx = some i ↔ idx.toNat = i.val := by
  unfold indexOf
  split
  · simp [Fin.ext_iff]
  · have := i.isLt
    simp
    omega

theorem indexOf_eq_none {idx : BitVec 7} : indexOf idx = none ↔ 42 ≤ idx.toNat := by
  simp [indexOf]

theorem channelOf_eq_none {ch : ChannelField} : channelOf ch = none ↔ ch = .noChannel := by
  cases ch <;> simp [channelOf]

/-! ### The operand checks -/

theorem withIndex_of_lt {idx : BitVec 7} {i : Fin 42} (h : idx.toNat = i.val) (s : State)
    (effect : Fin 42 → Result) : withIndex idx s effect = effect i := by
  simp [withIndex, indexOf_eq_some.mpr h]

theorem withIndex_of_ge {idx : BitVec 7} (h : 42 ≤ idx.toNat) (s : State) (effect : Fin 42 → Result) :
    withIndex idx s effect = .next (raiseError .indexRange s) := by
  simp [withIndex, indexOf_eq_none.mpr h]

/-- All that an index check can do: run the effect at the index, or raise INDEX_RANGE. -/
theorem withIndex_cases (idx : BitVec 7) (s : State) (effect : Fin 42 → Result) :
    (∃ i : Fin 42, idx.toNat = i.val ∧ withIndex idx s effect = effect i)
    ∨ 42 ≤ idx.toNat ∧ withIndex idx s effect = .next (raiseError .indexRange s) := by
  by_cases h : idx.toNat < 42
  · exact .inl ⟨⟨_, h⟩, rfl, withIndex_of_lt rfl s effect⟩
  · exact .inr ⟨by omega, withIndex_of_ge (by omega) s effect⟩

theorem withChannel_of_some {ch : ChannelField} {c : Channel} (h : channelOf ch = some c) (s : State)
    (effect : Channel → Result) : withChannel ch s effect = effect c := by
  simp [withChannel, h]

@[simp] theorem withChannel_noChannel (s : State) (effect : Channel → Result) :
    withChannel .noChannel s effect = .next (raiseError .badChannel s) := rfl

/-- All that a channel check can do: run the effect on the channel, or raise BAD_CHANNEL. -/
theorem withChannel_cases (ch : ChannelField) (s : State) (effect : Channel → Result) :
    (∃ c, channelOf ch = some c ∧ withChannel ch s effect = effect c)
    ∨ ch = .noChannel ∧ withChannel ch s effect = .next (raiseError .badChannel s) := by
  cases ch
  · exact .inl ⟨.red, rfl, rfl⟩
  · exact .inl ⟨.green, rfl, rfl⟩
  · exact .inl ⟨.blue, rfl, rfl⟩
  · exact .inr ⟨rfl, rfl⟩

@[simp] theorem unlessFaulted_of_clear {s : State} (h : s.err = false) (effect : Result) :
    unlessFaulted s effect = effect := by
  simp [unlessFaulted, h]

@[simp] theorem unlessFaulted_of_faulted {s : State} (h : s.err = true) (effect : Result) :
    unlessFaulted s effect = .next s := by
  simp [unlessFaulted, h]

/-! ### Going on after a result -/

@[simp] theorem andThen_next (s : State) (k : State → Result) : andThen (.next s) k = k s := rfl

theorem andThen_eq_next {r : Result} {k : State → Result} {t : State} :
    andThen r k = .next t ↔ ∃ s, r = .next s ∧ k s = .next t := by
  cases r <;> simp [andThen]

@[simp] theorem clockRun_nil (s : State) : clockRun [] s = .next s := rfl

@[simp] theorem clockRun_cons (p : Pins) (ps : List Pins) (s : State) :
    clockRun (p :: ps) s = andThen (clockEdge p s) (clockRun ps) := rfl

/-- Edges in two parts. -/
theorem clockRun_append (ps qs : List Pins) (s : State) :
    clockRun (ps ++ qs) s = andThen (clockRun ps s) (clockRun qs) := by
  induction ps generalizing s with
  | nil => rfl
  | cons p ps ih =>
    simp only [List.cons_append, clockRun_cons]
    cases clockEdge p s with
    | next t => simp [ih]
    | fault f => rfl
    | refused f => rfl

end Sys2Proof.Machine
end

