-- ==== Sys2Proof/Laws/PerInstr.lean ====
section
/-! SUPPORT. A statement about every instruction as syntax, one lemma per constructor. -/

namespace Sys2Proof.Laws

/-- The word of an instruction matches its row of the opcode map, reserved bits included (30_encoding.md R76). -/
def EncodeMatchesRow.Statement (i : Instr) : Prop := matchesRow (opcodeOf i) (encode i) = true

theorem EncodeMatchesRow.wrpix (idx : BitVec 7) (colour : Pixel) : EncodeMatchesRow.Statement (.wrpix idx colour) := by
  simp only [Statement, matchesRow, beq_iff_eq, opcodeOf, opcodeMask, opcodeMatch, encode, placeColour, place]
  ext i hi
  interval_cases i <;> simp

theorem EncodeMatchesRow.nop : EncodeMatchesRow.Statement .nop := by
  simp only [Statement]
  decide

theorem EncodeMatchesRow.fill (colour : Pixel) : EncodeMatchesRow.Statement (.fill colour) := by
  simp only [Statement, matchesRow, beq_iff_eq, opcodeOf, opcodeMask, opcodeMatch, encode, placeColour, place]
  ext i hi
  interval_cases i <;> simp

theorem EncodeMatchesRow.fade (ch : ChannelField) (amount : BitVec 9) (fm : FadeMode) :
    EncodeMatchesRow.Statement (.fade ch amount fm) := by
  simp only [Statement, matchesRow, beq_iff_eq, opcodeOf, opcodeMask, opcodeMatch, encode, place]
  ext i hi
  interval_cases i <;> simp

theorem EncodeMatchesRow.shift (dir : Direction) (mm : MappingMode) :
    EncodeMatchesRow.Statement (.shift dir mm) := by
  cases dir <;> cases mm <;> simp only [Statement] <;> decide

theorem EncodeMatchesRow.tx (mm : MappingMode) : EncodeMatchesRow.Statement (.tx mm) := by
  cases mm <;> simp only [Statement] <;> decide

theorem EncodeMatchesRow.wrch (idx : BitVec 7) (ch : ChannelField) (value : Byte) :
    EncodeMatchesRow.Statement (.wrch idx ch value) := by
  simp only [Statement, matchesRow, beq_iff_eq, opcodeOf, opcodeMask, opcodeMatch, encode, place]
  ext i hi
  interval_cases i <;> simp

theorem EncodeMatchesRow.rdpix (idx : BitVec 7) : EncodeMatchesRow.Statement (.rdpix idx) := by
  simp only [Statement, matchesRow, beq_iff_eq, opcodeOf, opcodeMask, opcodeMatch, encode, place]
  ext i hi
  interval_cases i <;> simp

theorem EncodeMatchesRow.rdch (idx : BitVec 7) (ch : ChannelField) : EncodeMatchesRow.Statement (.rdch idx ch) := by
  simp only [Statement, matchesRow, beq_iff_eq, opcodeOf, opcodeMask, opcodeMatch, encode, place]
  ext i hi
  interval_cases i <;> simp

end Sys2Proof.Laws
end

