-- ==== Sys2Proof/Laws/Step.lean ====
section
/-! SUPPORT. What the Engine's operations can do, said once: each lemma lists every case. -/

namespace Sys2Proof.Machine

/-- All that one command can do: it is discarded, raises one of two errors, rewrites the buffer, rewrites RDATA, or
transmits. -/
theorem exec_cases (i : Instr) (s : State) :
    exec i s = .next s
    ∨ s.err = false ∧ ∃ t, exec i s = .next t ∧
      (t = raiseError .badChannel s ∨ t = raiseError .indexRange s ∨ (∃ pb, t = { s with pb := pb })
        ∨ ((∃ idx, i = .rdpix idx) ∨ ∃ idx ch, i = .rdch idx ch) ∧ (∃ v, t = s.setRdata v)
        ∨ ∃ mm, i = .tx mm ∧ t = { s with wire := s.wire ++ txBytes s.pb mm }.releaseSequencer) := by
  rcases Bool.eq_false_or_eq_true s.err with h | h
  · left
    cases i <;> exact unlessFaulted_of_faulted h _
  · cases i with
    | nop => exact .inl (unlessFaulted_of_clear h _)
    | fill colour => exact .inr ⟨h, _, unlessFaulted_of_clear h _, .inr (.inr (.inl ⟨_, rfl⟩))⟩
    | shift dir mm => exact .inr ⟨h, _, unlessFaulted_of_clear h _, .inr (.inr (.inl ⟨_, rfl⟩))⟩
    | tx mm => exact .inr ⟨h, _, unlessFaulted_of_clear h _, .inr (.inr (.inr (.inr ⟨mm, rfl, rfl⟩)))⟩
    | wrpix idx colour =>
      refine .inr ⟨h, ?_⟩
      simp only [exec, execWrpix, unlessFaulted_of_clear h]
      obtain ⟨i, -, e⟩ | ⟨-, e⟩ := withIndex_cases idx s fun i => .next (s.setPixel i colour)
      · exact ⟨_, e, .inr (.inr (.inl ⟨_, rfl⟩))⟩
      · exact ⟨_, e, .inr (.inl rfl)⟩
    | fade ch amount fm =>
      refine .inr ⟨h, ?_⟩
      simp only [exec, execFade, unlessFaulted_of_clear h]
      cases hc : channelOf ch with
      | none => exact ⟨_, by simp [withChannel, hc], .inl rfl⟩
      | some c => exact ⟨_, withChannel_of_some hc _ _, .inr (.inr (.inl ⟨_, rfl⟩))⟩
    | wrch idx ch value =>
      refine .inr ⟨h, ?_⟩
      simp only [exec, execWrch, unlessFaulted_of_clear h]
      cases hc : channelOf ch with
      | none => exact ⟨_, by simp [withChannel, hc], .inl rfl⟩
      | some c =>
        rw [withChannel_of_some hc]
        obtain ⟨i, -, e⟩ | ⟨-, e⟩ :=
          withIndex_cases idx s fun i => .next (s.setPixel i (setChannel (s.pixel i) c value))
        · exact ⟨_, e, .inr (.inr (.inl ⟨_, rfl⟩))⟩
        · exact ⟨_, e, .inr (.inl rfl)⟩
    | rdpix idx =>
      refine .inr ⟨h, ?_⟩
      simp only [exec, execRdpix, unlessFaulted_of_clear h]
      obtain ⟨i, -, e⟩ | ⟨-, e⟩ := withIndex_cases idx s fun i => .next (s.setRdata (packColour (s.pixel i)))
      · exact ⟨_, e, .inr (.inr (.inr (.inl ⟨.inl ⟨idx, rfl⟩, _, rfl⟩)))⟩
      · exact ⟨_, e, .inr (.inl rfl)⟩
    | rdch idx ch =>
      refine .inr ⟨h, ?_⟩
      simp only [exec, execRdch, unlessFaulted_of_clear h]
      cases hc : channelOf ch with
      | none => exact ⟨_, by simp [withChannel, hc], .inl rfl⟩
      | some c =>
        rw [withChannel_of_some hc]
        obtain ⟨i, -, e⟩ | ⟨-, e⟩ :=
          withIndex_cases idx s fun i => .next (s.setRdata ((s.channel i c).setWidth 24))
        · exact ⟨_, e, .inr (.inr (.inr (.inl ⟨.inr ⟨idx, ch, rfl⟩, _, rfl⟩)))⟩
        · exact ⟨_, e, .inr (.inl rfl)⟩

/-- All that an accepted word can do: it is discarded, raises ILLEGAL_ENCODING, or runs as the instruction it decodes
to. -/
theorem runWord_cases (w : Word) (s : State) :
    s.err = true ∧ runWord w s = .next s
    ∨ s.err = false ∧ (∃ e, decode w = .error e ∧ runWord w s = .next (raiseError e s))
    ∨ s.err = false ∧ ∃ i, decode w = .ok i ∧ runWord w s = exec i s := by
  cases h : s.err with
  | true => exact .inl ⟨rfl, by simp [runWord, h]⟩
  | false =>
    cases hd : decode w with
    | error e => exact .inr (.inl ⟨rfl, e, rfl, by simp [runWord, h, hd]⟩)
    | ok i => exact .inr (.inr ⟨rfl, i, rfl, by simp [runWord, h, hd]⟩)

/-- When an accepted word takes the Engine to TX. -/
theorem entersTx_eq_some {w : Word} {s : State} {mm : MappingMode} :
    entersTx w s = some mm ↔ s.err = false ∧ decode w = .ok (.tx mm) := by
  unfold entersTx
  cases h : s.err with
  | true => simp
  | false =>
    simp only [Bool.false_eq_true, if_false, true_and]
    split
    · rename_i m hd
      simp [hd]
    · rename_i hd
      simp only [reduceCtorEq, false_iff]
      exact hd mm

/-- A reset edge. -/
theorem clockEdge_reset {p : Pins} (h : p.rst = true) (s : State) : clockEdge p s = .next (resetEdge s) := by
  simp [clockEdge, h]

/-- An edge in INIT. -/
theorem clockEdge_init {p : Pins} {s : State} (h : p.rst = false) (he : s.engine = .init) :
    clockEdge p s = .next (if s.timer = 0 then finishInit s else { s with timer := s.timer - 1 }) := by
  simp [clockEdge, h, he]

/-- An edge in IDLE. -/
theorem clockEdge_idle {p : Pins} {s : State} (h : p.rst = false) (he : s.engine = .idle) :
    clockEdge p s = .next (if p.cmdValid then acceptEdge p.cmdData s else s) := by
  simp [clockEdge, h, he]

/-- An edge in EXEC. -/
theorem clockEdge_exec {p : Pins} {s : State} (h : p.rst = false) (he : s.engine = .exec) :
    clockEdge p s = if s.timer ≤ 1 then finishExec s else .next { s with timer := s.timer - 1 } := by
  simp [clockEdge, h, he]

/-- An edge in TX. -/
theorem clockEdge_tx {p : Pins} {s : State} (h : p.rst = false) (he : s.engine = .tx) :
    clockEdge p s = .next (if s.timer = 0 then serialEdge s else { s with timer := s.timer - 1 }) := by
  simp [clockEdge, h, he]

/-- Outside EXEC no command's effect is ahead. -/
theorem pending_of_not_exec {s : State} (h : s.engine ≠ .exec) : s.pending = s := by
  unfold State.pending
  split
  · exact absurd ‹_› h
  · rfl

/-- In EXEC the state ahead is what the command in progress leaves. -/
theorem pending_of_exec {s t : State} (h : s.engine = .exec) (ht : runWord s.cmd s = .next t) : s.pending = t := by
  simp [State.pending, h, ht]

/-- All that the `status` port can show: the new error bits from the free cycle on, the old ones before it. -/
theorem statusPort_cases (s : State) :
    s.timer ≤ Config.freeStatusLead s.draws ∧ s.statusPort = statusWord s.busy s.pending.err s.txact s.pending.errCode
    ∨ Config.freeStatusLead s.draws < s.timer ∧ s.statusPort = statusWord s.busy s.err s.txact s.errCode := by
  unfold State.statusPort
  split
  · exact .inl ⟨‹_›, rfl⟩
  · exact .inr ⟨by omega, rfl⟩

/-- Outside EXEC the `status` port shows STATUS. -/
theorem statusPort_of_not_exec {s : State} (h : s.engine ≠ .exec) : s.statusPort = s.status := by
  simp [State.statusPort, State.status, pending_of_not_exec h]

/-- Every step that answers is a clock edge, a wait for `cmd_ready`, a whole command, or a command cut by a reset. -/
theorem step_cases {s t : State} (h : step s = .next t) :
    (∃ p rest, s.inputs = .edge p :: rest ∧ clockEdge p { s with inputs := rest } = .next t)
    ∨ runToIdle s = .next t
    ∨ (∃ w rest, s.inputs = .command w :: rest ∧ s.engine = .idle ∧ runWord w { s with inputs := rest } = .next t)
    ∨ ∃ w rest, s.inputs = .cutCommand w :: rest ∧ s.engine = .idle ∧ t = cutWord w { s with inputs := rest } := by
  unfold step at h
  split at h
  · cases h
  unfold hostStep at h
  cases hi : s.inputs with
  | nil =>
    rw [hi] at h
    exact .inr (.inl h)
  | cons a rest =>
    rw [hi] at h
    cases a with
    | edge p => exact .inl ⟨p, rest, rfl, h⟩
    | command w =>
      by_cases he : s.engine = .idle
      · simp only [whenReady, he, if_true] at h
        exact .inr (.inr (.inl ⟨w, rest, rfl, he, by simpa [he] using h⟩))
      · simp only [whenReady, he, if_false] at h
        exact .inr (.inl h)
    | cutCommand w =>
      by_cases he : s.engine = .idle
      · simp only [whenReady, he, if_true] at h
        refine .inr (.inr (.inr ⟨w, rest, rfl, he, ?_⟩))
        cases h
        simp [he]
      · simp only [whenReady, he, if_false] at h
        exact .inr (.inl h)

end Sys2Proof.Machine
end

