-- ==== Sys2Proof/Laws/Runs.lean ====
section
/-! SUPPORT. The laws of instructions run one after another. -/

namespace Sys2Proof.Machine

@[simp] theorem execAll_nil (s : State) : execAll [] s = .next s := rfl

@[simp] theorem execAll_cons (i : Instr) (is : List Instr) (s : State) :
    execAll (i :: is) s = andThen (exec i s) (execAll is) := rfl

@[simp] theorem repeatExec_zero (i : Instr) (s : State) : repeatExec 0 i s = .next s := rfl

@[simp] theorem repeatExec_succ (k : Nat) (i : Instr) (s : State) :
    repeatExec (k + 1) i s = andThen (exec i s) (repeatExec k i) := rfl

/-- A repetition is a run of equal instructions. -/
theorem repeatExec_eq_execAll (k : Nat) (i : Instr) (s : State) : repeatExec k i s = execAll (List.replicate k i) s := by
  induction k generalizing s with
  | zero => rfl
  | succ k ih =>
    simp only [repeatExec_succ, List.replicate_succ, execAll_cons]
    cases exec i s with
    | next t => exact ih t
    | fault f => rfl
    | refused f => rfl

end Sys2Proof.Machine
end

