-- ==== Sys2Proof/Tests/Slice0.lean ====
section
/-! SUPPORT. The model's own tests. Expected values are those of spec/95_test_vectors.md (named V-…) or of the corner
cases of the rule a comment names. The witnesses at the end meet the hypotheses of the statements. -/

open Sys2Proof Sys2Proof.Machine

namespace Sys2Proof.Tests

/-- The state after reset with INIT over: IDLE, black, ERR = 0. -/
def idle : State := finishInit State.reset

/-- The labelled buffer `L` of 95_test_vectors.md section 2.4. -/
def labelled : Vector Pixel 42 :=
  bufferOf fun i => ⟨BitVec.ofNat 8 i.val, BitVec.ofNat 8 (0x40 + i.val), BitVec.ofNat 8 (0x80 + i.val)⟩

/-- `idle` with the labelled buffer. -/
def idleL : State := { idle with pb := labelled }

/-- `idle` in the fault state after INDEX_RANGE. -/
def faulted : State := raiseError .indexRange idle

/-- One value of the next state, if there is one. -/
def after {α : Type} (r : Result) (f : State → α) : Option α :=
  match r with
  | .next s => some (f s)
  | _ => none

/-! ### Well-formedness: each check refuses an ill-formed term -/

theorem test_wellFormed_index_42 : (Instr.rdpix 42).wellFormed = false := by decide
theorem test_wellFormed_index_41 : (Instr.rdpix 41).wellFormed = true := by decide
theorem test_wellFormed_wrpix : (Instr.wrpix 127 black).wellFormed = false := by decide
theorem test_wellFormed_wrch_index : (Instr.wrch 42 .red 0).wellFormed = false := by decide
theorem test_wellFormed_wrch_channel : (Instr.wrch 0 .noChannel 0).wellFormed = false := by decide
theorem test_wellFormed_fade : (Instr.fade .noChannel 0 .modular).wellFormed = false := by decide
theorem test_wellFormed_rdch : (Instr.rdch 0 .noChannel).wellFormed = false := by decide
theorem test_wellFormed_rdch_index : (Instr.rdch 42 .blue).wellFormed = false := by decide

/-! ### Decoding: words written out bit by bit from 30_encoding.md R71 and R72 -/

/-- V-EN16, bits `1 0000101 11111111 10000000 00000000`. -/
theorem test_decode_wrpix : decode 0b1000_0101_1111_1111_1000_0000_0000_0000 = .ok (.wrpix 5 ⟨0xFF, 0x80, 0x00⟩) := by
  decide
/-- V-EN1. -/
theorem test_decode_nop : decode 0b0000_0000_0000_0000_0000_0000_0000_0000 = .ok .nop := by decide
/-- V-EN2. -/
theorem test_decode_fill : decode 0b0001_0000_0001_0000_0010_0000_0011_0000 = .ok (.fill ⟨0x10, 0x20, 0x30⟩) := by
  decide
/-- V-EN3: FM 1, CH 01, AMT 1_1100_1110 = -50. -/
theorem test_decode_fade :
    decode 0b0010_0000_0000_0001_0001_0001_1100_1110 = .ok (.fade .green (BitVec.ofInt 9 (-50)) .constrained) := by
  decide
/-- V-EN10. -/
theorem test_decode_shift : decode 0b0011_0000_0000_0000_0000_0000_0001_0001 = .ok (.shift .negative .full) := by decide
/-- V-EN12. -/
theorem test_decode_tx : decode 0b0100_0000_0000_0000_0000_0000_0001_0000 = .ok (.tx .full) := by decide
/-- V-EN13. -/
theorem test_decode_wrch : decode 0b0101_0000_0000_0111_0001_0000_1000_0000 = .ok (.wrch 7 .green 0x80) := by decide
/-- V-EN14. -/
theorem test_decode_rdpix : decode 0b0110_0000_0000_0101_0000_0000_0000_0000 = .ok (.rdpix 5) := by decide
/-- V-EN15. -/
theorem test_decode_rdch : decode 0b0111_0000_0000_0111_0010_0000_0000_0000 = .ok (.rdch 7 .blue) := by decide

/-- V-EN19 to V-EN21, V-EN23 to V-EN25: a reserved bit set. -/
theorem test_decode_reserved :
    [0x00000001, 0x11000000, 0x20020000, 0x30000002, 0x40000001, 0x50000100].map decodeChecked
      = List.replicate 6 (.error .illegalEncoding) := by decide
/-- V-EN22, V-EN26 to V-EN31: the other errors, in their order. -/
theorem test_decode_errors :
    [0x20003000, 0x602A0000, 0x60800000, 0x707F3000, 0x70FF3000, 0xAA010203, 0xFF000000].map decodeChecked
      = [.error .badChannel, .error .indexRange, .error .illegalEncoding, .error .badChannel,
         .error .illegalEncoding, .error .indexRange, .error .indexRange] := by decide
/-- V-EN18: a black WRPIX at 0 is no NOP. -/
theorem test_encode_wrpix : encode (.wrpix 0 black) = 0x80000000 := by decide

/-! ### Assembler (30_encoding.md R79, R80) -/

/-- `FADE G, -50, CON` (V-EN3). -/
theorem test_assemble_fade :
    assembleLine ['f', 'a', 'd', 'e', ' ', 'g', ',', ' ', '-', '5', '0', ',', ' ', 'C', 'O', 'N', ' ', ';', 'x']
      = .word 0x200111CE := by decide
/-- `WRPIX 42, #010203` assembles, and the command raises INDEX_RANGE (V-EN30). -/
theorem test_assemble_wrpix :
    assembleLine ['W', 'R', 'P', 'I', 'X', ' ', '4', '2', ',', ' ', '#', '0', '1', '0', '2', '0', '3']
      = .word 0xAA010203 := by decide
/-- An index above 127 is refused. -/
theorem test_assemble_refuses : assembleLine ['R', 'D', 'P', 'I', 'X', ' ', '1', '2', '8'] = .refused := by decide
/-- A raw word in small letters (log 18), and a line with a comment only. -/
theorem test_assemble_program :
    assemble (['.', 'w', 'o', 'r', 'd', ' ', '0', 'x', '1'] ++ ['\n', ';', 'c', '\n', 'N', 'O', 'P'])
      = some [1, 0] := by decide

/-! ### The commands -/

/-- V-BA8. -/
theorem test_nop : after (exec .nop idle) State.status = some 0 := by decide
/-- V-BA1. -/
theorem test_wrpix : after (exec (.wrpix 5 ⟨0xFF, 0x80, 0x00⟩) idle) (fun s => (s.pixel 5, s.pixel 4))
    = some (⟨0xFF, 0x80, 0x00⟩, black) := by decide
/-- V-ER1: STATUS 0x0022, and index 42 does not wrap to 0. -/
theorem test_wrpix_range : after (exec (.wrpix 42 ⟨1, 2, 3⟩) idle) (fun s => (s.status, s.pixel 0))
    = some (0x0022, black) := by decide
/-- V-BA3. -/
theorem test_wrch : after (exec (.wrch 7 .green 0x80) { idle with pb := bufferOf fun _ => ⟨0x11, 0x22, 0x33⟩ })
    (fun s => s.pixel 7) = some ⟨0x11, 0x80, 0x33⟩ := by decide
/-- V-BA2. -/
theorem test_rdpix : after (exec (.rdpix 5) { idle with pb := bufferOf fun _ => ⟨0xFF, 0x80, 0⟩ }) State.rdata
    = some 0xFF8000 := by decide
/-- V-BA7: RDATA stays. -/
theorem test_rdpix_range : after (exec (.rdpix 42) { idle with rdata := 0xFF8000 }) (fun s => (s.rdata, s.status))
    = some (0xFF8000, 0x0022) := by decide
/-- V-BA5: bits 23:8 are cleared. -/
theorem test_rdch :
    after (exec (.rdch 5 .red) { idle with rdata := 0xFF8000, pb := bufferOf fun _ => ⟨0xFF, 0x80, 0⟩ }) State.rdata
    = some 0x0000FF := by decide
/-- V-FL1. -/
theorem test_fill : after (exec (.fill ⟨0x10, 0x20, 0x30⟩) idleL) (fun s => (s.pixel 0, s.pixel 41))
    = some (⟨0x10, 0x20, 0x30⟩, ⟨0x10, 0x20, 0x30⟩) := by decide
/-- V-FD1 to V-FD14, the datapath alone. -/
theorem test_fade8 :
    [fade8 255 1 .modular, fade8 255 1 .constrained, fade8 0 (-1) .modular, fade8 0 (-1) .constrained,
     fade8 200 100 .modular, fade8 200 100 .constrained, fade8 30 (BitVec.ofInt 9 (-50)) .modular,
     fade8 30 (BitVec.ofInt 9 (-50)) .constrained, fade8 77 0x100 .modular, fade8 77 0x100 .constrained,
     fade8 0 255 .modular, fade8 77 255 .modular, fade8 1 255 .constrained, fade8 20 0 .constrained]
    = [0, 255, 255, 0, 44, 255, 236, 0, 77, 0, 255, 76, 255, 20] := by decide
/-- V-FD16. -/
theorem test_fade : after (exec (.fade .red 5 .constrained) { idle with pb := bufferOf fun _ => ⟨10, 20, 30⟩ })
    (fun s => s.pixel 41) = some ⟨15, 20, 30⟩ := by decide
/-- V-SH1 and V-SH2 at the ends and the centre. -/
theorem test_shift_full :
    (([0, 20, 21, 41] : List (Fin 42)).map (shiftSource .positive .full),
      ([0, 20, 21, 41] : List (Fin 42)).map (shiftSource .negative .full)) = ([41, 19, 20, 40], [1, 21, 22, 0]) := by
  decide
/-- V-SH3 and V-SH4 at the ends and the centre. -/
theorem test_shift_mirrored :
    (([0, 1, 20, 21, 40, 41] : List (Fin 42)).map (shiftSource .positive .mirrored),
      ([0, 19, 20, 21, 22, 41] : List (Fin 42)).map (shiftSource .negative .mirrored))
    = ([20, 0, 19, 22, 41, 21], [1, 20, 0, 41, 21, 40]) := by decide
/-- V-TX2: slot 4 of a Full frame is index 0, then index 41. -/
theorem test_tx_full : after (exec (.tx .full) idleL) (fun s => (s.wire.drop 65).take 6)
    = some ([0x40, 0x80, 0x00, 0x69, 0xA9, 0x29].map dataFrame) := by decide
/-- V-TX1: slot 5 of a Mirrored frame replays slot 0. -/
theorem test_tx_mirrored : after (exec (.tx .mirrored) idleL) (fun s => (s.wire.drop 72).take 6)
    = some ([0x54, 0x94, 0x14, 0x53, 0x93, 0x13].map dataFrame) := by decide
/-- V-WF1 to V-WF5. -/
theorem test_wire_frames :
    [frameBits ⟨true, 0xA5⟩, frameBits ⟨false, 0x01⟩, frameBits ⟨false, 0xFF⟩, frameBits ⟨true, 0x00⟩,
     frameBits ⟨false, 0x80⟩] = [0x74A, 0x402, 0x5FE, 0x600, 0x500] := by decide

/-- The topology check of 00_scope.md R11: the chip map's pixel slots are the buffer's length, in both modes. -/
theorem test_topology :
    Config.armLength = 21
      ∧ 2 * (Config.armChips * Config.pixelsPerArmChip) + Config.endCapPixels = Config.pixelCount
      ∧ 2 * Config.armChips + 1 = Config.chipCount ∧ Config.frameBytes = 135
      ∧ (slots.flatMap (slotMap .mirrored)).length = Config.pixelCount
      ∧ (slots.flatMap (slotMap .full)).length = Config.pixelCount := by decide

/-! ### Steps -/

/-- V-ER3: an illegal word. -/
theorem test_step_illegal : after (step { idle with inputs := [.command 1] }) State.status = some 0x0012 := by decide
/-- V-ER4: the first code is kept. -/
theorem test_step_faulted : after (step { faulted with inputs := [.command 1] }) State.status = some 0x0022 := by
  decide
/-- V-ER5: FILL in the fault state changes no pixel. -/
theorem test_step_discards : after (step { faulted with inputs := [.command 0x10FFFFFF] }) (fun s => s.pixel 0)
    = some black := by decide
/-- V-ER6, V-RS1: a reset edge clears ERR and shows STATUS 0x0001. -/
theorem test_step_reset :
    after (step { faulted with inputs := [.edge ⟨true, true, 0⟩] }) (fun s => (s.status, s.err, s.serOut))
    = some (0x0001, false, true) := by decide
/-- V-RS1: the first step from reset ends INIT. -/
theorem test_step_init : after (step State.reset) (fun s => (s.status, s.pixel 41)) = some (0, black) := by decide
/-- A word put at the fetch place is the first to run after reset (V-FL1). -/
theorem test_step_fetch : after (step (State.reset.withFetchWord 32 0x10102030)) (fun s => packColour (s.pixel 9))
    = some 0x102030 := by decide
/-- 10_state.md R30: a TX word takes IDLE to TX, another to EXEC. -/
theorem test_edge_accepts :
    (after (clockEdge (offerEdge 0x40000000) idle) State.engine, after (clockEdge (offerEdge 0) idle) State.engine)
    = (some .tx, some .exec) := by decide
/-- 60_exceptions.md R203: in the fault state a TX word goes to EXEC. -/
theorem test_edge_faulted : after (clockEdge (offerEdge 0x40000000) faulted) State.engine = some .exec := by decide

/-! ### Witnesses: the hypotheses of each statement are met together -/

theorem idle_legal : Legal idle where
  status := by unfold StatusLegal; decide
  timer := rfl
  exec := by intro h; cases h
  baud := Nat.succ_pos _
  tx := by intro h; cases h

theorem faulted_legal : Legal faulted where
  status := by unfold StatusLegal; decide
  timer := rfl
  exec := by intro h; cases h
  baud := Nat.succ_pos _
  tx := by intro h; cases h

/-- Any number of quiet edges. -/
theorem noReset_replicate (n : Nat) : NoReset (List.replicate n ⟨false, true, 0⟩) := by
  intro p hp
  rw [List.eq_of_mem_replicate hp]

theorem test_witness_EncodeInvertsDecode : decode 0xA9FFFFFF = .ok (.wrpix 41 ⟨0xFF, 0xFF, 0xFF⟩) := by decide
theorem test_witness_DecodeFollowsTheOpcodeMap :
    matchesRow .wrch 0x507F30FF = true ∧ ∀ op : Opcode, matchesRow op 0x50800000 = false :=
  ⟨by decide, fun op => by cases op <;> decide⟩
theorem test_witness_WordErrorsInOrder : faulted.err = true ∧ idle.err = false
    ∧ (∀ op : Opcode, matchesRow op 0x00000001 = false)
    ∧ (matchesRow .rdch 0x707F3000 = true ∧ (operandsOf .rdch 0x707F3000).channelOk = false)
    ∧ (matchesRow .rdch 0x702A2000 = true ∧ (operandsOf .rdch 0x702A2000).channelOk = true
        ∧ (operandsOf .rdch 0x702A2000).indexOk = false)
    ∧ matchesRow .rdch 0x70292000 = true ∧ (operandsOf .rdch 0x70292000).wellFormed = true :=
  ⟨by decide, by decide, fun op => by cases op <;> decide, by decide, by decide, by decide⟩
theorem test_witness_AssemblerSpellsOnlyLegalFields :
    AsmName.tx ≠ .rawWord ∧ asmWord .tx [['M', 'I', 'R']] = some 0x40000000 := by decide
theorem test_witness_StepRunsTheDecodedInstruction :
    let s : State := { idle with inputs := [.command 0x20002100] }
    s.engine = .idle ∧ s.err = false ∧ s.errCode.toNat ≤ 3 ∧ s.inputs = .command 0x20002100 :: []
      ∧ decode 0x20002100 = .ok (.fade .blue 0x100 .modular) := by decide
theorem test_witness_FetchedWordRunsFirstAfterReset : decodeTableWord 32 0x40000010 = some (.tx .full) := by decide
theorem test_witness_FaultEntryChangesOnlyStatus :
    let s : State := { idle with inputs := [.command 0x602A0000] }
    s.engine = .idle ∧ s.err = false ∧ s.errCode.toNat ≤ 3 ∧ s.inputs = .command 0x602A0000 :: []
      ∧ decodeChecked 0x602A0000 = .error .indexRange ∧ decodeChecked 0x00000001 = .error .illegalEncoding
      ∧ decodeChecked 0x20003000 = .error .badChannel := by decide
theorem test_witness_FaultStateDiscardsUntilReset :
    let s : State := { faulted with inputs := [.command 0x10FFFFFF] }
    (s.engine = .idle ∧ s.err = true ∧ s.errCode.toNat ≤ 3 ∧ s.inputs = .command 0x10FFFFFF :: [])
      ∧ ((faulted.err = true ∧ faulted.engine = .idle) ∧ NoReset [offerEdge 0x40000000]) :=
  ⟨by decide, by decide, by simp [NoReset, offerEdge]⟩
theorem test_witness_ErrorIsSticky :
    ∃ t, step { faulted with inputs := [.command 0] } = .next t ∧ faulted.err = true ∧ t.engine ≠ .init :=
  ⟨faulted, rfl, by decide, by decide⟩
theorem test_witness_WireTraceOnlyGrows :
    ∃ t, step { idle with inputs := [.command 0x40000000] } = .next t ∧ t.engine ≠ .init :=
  ⟨_, rfl, by decide⟩
theorem test_witness_OnlyReadsAndResetChangeRdata :
    ∃ t, step { idleL with inputs := [.command 0x60290000] } = .next t ∧ t.rdata ≠ idleL.rdata :=
  ⟨_, rfl, by decide⟩
theorem test_witness_NopChangesNothing : idle.err = false := by decide
theorem test_witness_WrpixWritesOnePixel : idle.err = false ∧ (41 : BitVec 7).toNat = (41 : Fin 42).val := by decide
theorem test_witness_WrchWritesOneChannel :
    idle.err = false ∧ channelOf .blue = some .blue ∧ (0 : BitVec 7).toNat = (0 : Fin 42).val := by decide
theorem test_witness_RdpixReadsOnePixel : idleL.err = false ∧ (41 : BitVec 7).toNat = (41 : Fin 42).val := by decide
theorem test_witness_RdchReadsOneChannel :
    idleL.err = false ∧ channelOf .red = some .red ∧ (41 : BitVec 7).toNat = (41 : Fin 42).val := by decide
theorem test_witness_IndexOutOfRangeRaises :
    idle.err = false ∧ 42 ≤ (42 : BitVec 7).toNat ∧ ChannelField.green ≠ .noChannel := by decide
theorem test_witness_BadChannelRaises : idle.err = false := by decide
/-- A last write by WRPIX, by WRCH and by FILL, and writes elsewhere: another index, another channel of the same pixel. -/
theorem test_witness_ReadReturnsTheLastWrite :
    (∀ j ∈ [Instr.wrpix 40 black, .wrch 41 .red 7, .wrch 0 .blue 8, .fade .green 1 .modular, .tx .full],
        j.wellFormed = true ∧ LeavesAlone 41 .blue j)
    ∧ idle.err = false ∧ Writes 41 .blue 3 (.wrpix 41 ⟨1, 2, 3⟩) ∧ Writes 41 .blue 3 (.wrch 41 .blue 3)
    ∧ Writes 41 .blue 3 (.fill ⟨1, 2, 3⟩) := by
  simp [LeavesAlone, Writes, channelOf, channelValue, Instr.wellFormed, Instr.channelOk, Instr.indexOk]
  decide
theorem test_witness_RepeatedCommands :
    (Instr.rdch 41 .blue ∈ [Instr.rdpix 41, .rdch 41 .blue] ∧ (∃ t, exec (.rdch 41 .blue) idleL = .next t)
        ∧ (Instr.rdch 41 .blue).wellFormed = true)
    ∧ ((∃ t, exec (.rdpix 42) idleL = .next t) ∧ (Instr.rdpix 42).wellFormed = false)
    ∧ (∃ t, exec (.wrch 41 .blue 9) idleL = .next t)
    ∧ Instr.wrch 41 .blue 9 ∈ [Instr.wrpix 41 black, .wrch 41 .blue 9, .fill black, .rdpix 41, .rdch 41 .blue]
    ∧ idleL.err = false :=
  ⟨⟨by decide, ⟨_, rfl⟩, by decide⟩, ⟨⟨_, rfl⟩, by decide⟩, ⟨_, rfl⟩, by decide, by decide⟩
theorem test_witness_FillSetsEveryPixel : idleL.err = false := by decide
theorem test_witness_FadeChangesOneChannelOfEveryPixel : idleL.err = false ∧ channelOf .green = some .green := by decide
theorem test_witness_ShiftFullRotatesTheRing :
    idleL.err = false ∧ (((41 : Fin 42).val : Int) = (((0 : Fin 42).val : Int) - 1) % 42)
      ∧ ((0 : Fin 42).val : Int) = (((41 : Fin 42).val : Int) + 1) % 42 := by decide
theorem test_witness_ShiftMirroredRotatesEachArm :
    idleL.err = false
      ∧ ((0 : Fin 42).val < 21 ∧ ((20 : Fin 42).val : Int) = (((0 : Fin 42).val : Int) - 1) % 21)
      ∧ (21 ≤ (41 : Fin 42).val ∧ ((21 : Fin 42).val : Int) = 21 + (((41 : Fin 42).val : Int) - 21 + 1) % 21)
      ∧ ((20 : Fin 42).val < 21 ∧ ((0 : Fin 42).val : Int) = (((20 : Fin 42).val : Int) + 1) % 21)
      ∧ 21 ≤ (21 : Fin 42).val ∧ ((41 : Fin 42).val : Int) = 21 + (((21 : Fin 42).val : Int) - 21 - 1) % 21 := by decide
theorem test_witness_ShiftPreservesTheMultiset : idleL.err = false := by decide
theorem test_witness_ShiftInverseAndPeriod :
    idleL.err = false ∧ ((0 : Fin 42).val : Int) = (((1 : Fin 42).val : Int) - (43 : Nat)) % 42
      ∧ ((2 : Fin 42).val : Int) = (((1 : Fin 42).val : Int) + (43 : Nat)) % 42 := by decide
theorem test_witness_FadePeriodAndInverse : idleL.err = false ∧ ChannelField.red ≠ .noChannel
    ∧ (0x101 : BitVec 9).toInt ≠ -256
    ∧ (((1 : Byte).toNat : Int) + (255 : BitVec 9).toInt < 0 ∨ 255 < ((1 : Byte).toNat : Int) + (255 : BitVec 9).toInt) := by
  decide
theorem test_witness_FillThenReadGivesTheColour : idleL.err = false ∧ (41 : BitVec 7).toNat < 42 := by decide
theorem test_witness_MirrorSymmetryIsKept :
    (idle.err = false ∧ ∃ t, exec (.fill black) idle = .next t)
      ∧ MirrorSymmetric idle.pb ∧ (∃ t, exec (.shift .negative .mirrored) idle = .next t)
      ∧ ∃ t, exec (.fade .red 1 .modular) idle = .next t :=
  ⟨⟨by decide, _, rfl⟩, by unfold MirrorSymmetric; decide, ⟨_, rfl⟩, _, rfl⟩
theorem test_witness_SlotMapCoverage : ∃ pb pb' : Vector Pixel 42, (∀ i : Fin 42, i.val ≤ 20 → pb[i] = pb'[i]) ∧ pb ≠ pb' :=
  ⟨bufferOf fun _ => black, bufferOf fun i => if i.val ≤ 20 then black else ⟨1, 1, 1⟩, by decide, by decide⟩
theorem test_witness_TxBytesAddressThenGreenBlueRed :
    [0, 16, 32, 48, 64, 71, 87, 103, 119][(8 : Fin 9).val]? = some 119 ∧ (slotMap .full 8)[4]? = some 40 := by decide
theorem test_witness_TxFrameSize : ∃ f, (txBytes labelled .full)[134]? = some f ∧ f.sel = false :=
  ⟨dataFrame 0x28, by decide, rfl⟩
theorem test_witness_TxAppendsOneFrame : idleL.err = false := by decide
theorem test_witness_WireFrameLayout : 7 < 8 := by decide
theorem test_witness_MirroredFrameIsFullFrameOfTheMirror : MirrorSymmetric (bufferOf fun _ => black) := by
  unfold MirrorSymmetric
  decide
theorem test_witness_TxEndToEnd : (3 : Fin 9).val < 4 ∧ (8 : Fin 9).val = 5 + (3 : Fin 9).val ∧ idle.err = false := by decide
theorem test_witness_LineIdlesHigh : idle.engine ≠ .tx ∧ Legal faulted ∧ faulted.err = true :=
  ⟨by decide, faulted_legal, by decide⟩
theorem test_witness_TxWaveform : idleL.engine = .idle ∧ idleL.err = false ∧ decode 0x40000010 = .ok (.tx .full)
    ∧ ∃ ps, NoReset ps ∧ ps.length < Config.txStartLatency + 1485 * Config.bitPeriod :=
  ⟨rfl, by decide, by decide, List.replicate (Config.txStartLatency + 1485 * Config.bitPeriod - 1) _, noReset_replicate _, by
    have : Config.bitPeriod = Config.bitPeriodLessOne + 1 := rfl
    rw [List.length_replicate]
    omega⟩
theorem test_witness_TxClockRefinesTransaction :
    idleL.engine = .idle ∧ idleL.err = false ∧ decode 0x40000000 = .ok (.tx .mirrored)
    ∧ ∃ ps, NoReset ps ∧ ps.length = Config.txStartLatency + 1485 * Config.bitPeriod :=
  ⟨rfl, by decide, by decide, _, noReset_replicate _, List.length_replicate⟩
theorem test_witness_ExecClockRefinesTransaction : idleL.engine = .idle ∧ entersTx 0x60050000 idleL = none
    ∧ (∃ ps, NoReset ps ∧ ps.length < Config.execLatency idleL.err 0x60050000)
    ∧ ∃ ps, NoReset ps ∧ ps.length = Config.execLatency idleL.err 0x60050000 :=
  ⟨rfl, by decide, ⟨[], by simp [NoReset], Nat.succ_pos _⟩, _, noReset_replicate _, List.length_replicate⟩
/-- A legal state of each Engine state: INIT, IDLE, EXEC with its whole wait ahead, TX before its first start bit. -/
theorem test_witness_WaitingIsClockEdges :
    Legal State.reset ∧ Legal idle ∧ Legal (acceptEdge 0x60050000 idleL) ∧ Legal (acceptEdge 0x40000010 idleL)
      ∧ ∀ n, ∃ ps, NoReset ps ∧ ps.length = n :=
  ⟨⟨(by unfold StatusLegal; decide), le_refl _, (by intro h; cases h), Nat.succ_pos _, (by intro h; cases h)⟩, idle_legal,
    ⟨(by unfold StatusLegal; decide), ⟨Nat.succ_pos _, le_refl _⟩, fun _ => by decide, Nat.succ_pos _, (by intro h; cases h)⟩,
    ⟨(by unfold StatusLegal; decide), le_refl _, (by intro h; cases h), Nat.succ_pos _,
      fun _ => ⟨by decide, by decide, rfl, fun _ => rfl, ⟨[], rfl⟩⟩⟩,
    fun n => ⟨_, noReset_replicate n, List.length_replicate⟩⟩
theorem test_witness_EngineTransitions :
    ∃ t, (offerEdge 0x40000000).rst = false ∧ clockEdge (offerEdge 0x40000000) idle = .next t ∧ t.engine ≠ idle.engine :=
  ⟨acceptEdge 0x40000000 idle, rfl, rfl, by decide⟩
theorem test_witness_WordIgnoredUnlessAccepted :
    State.reset.cmdReady = false ∧ (⟨true, true, 0⟩ : Pins).rst = true
      ∧ (⟨false, false, 0⟩ : Pins).rst = false ∧ (⟨false, false, 0⟩ : Pins).cmdValid = false ∧ idle.engine = .idle := by
  decide
theorem test_witness_ReadPortsSettleWhenReady :
    idle.cmdReady = true ∧ (acceptEdge 0x60050000 idle).engine = .exec := by decide
/-- In IDLE with ERR = 1; in EXEC with ERR = 1; and in EXEC with ERR = 0 at a cycle that shows the error of the command. -/
theorem test_witness_StatusPortIsSticky :
    (faulted.statusPort.getLsbD 1 = true ∧ ∃ t, step faulted = .next t ∧ t.engine ≠ .init)
      ∧ ((acceptEdge 0 faulted).statusPort.getLsbD 1 = true
        ∧ ∃ t, step (acceptEdge 0 faulted) = .next t ∧ t.engine ≠ .init)
      ∧ let s : State := { idle with engine := .exec, cmd := 1, timer := 0 }
        s.err = false ∧ s.statusPort.getLsbD 1 = true ∧ ∃ t, step s = .next t ∧ t.engine ≠ .init := by
  refine ⟨⟨by rw [statusPort_of_not_exec (by decide)]; decide, _, rfl, by decide⟩,
    ⟨?_, _, rfl, by decide⟩, rfl, ?_, _, rfl, by decide⟩
  · obtain ⟨-, h⟩ | ⟨-, h⟩ := statusPort_cases (acceptEdge 0 faulted) <;> rw [h] <;> decide
  · rw [State.statusPort, if_pos (Nat.zero_le _)]
    decide
theorem test_witness_ResetFromAnyState : (⟨true, true, 0⟩ : Pins).rst = true ∧ idle.engine ≠ .tx
    ∧ (∃ ps, NoReset ps ∧ ps.length ≤ Config.resetInitCycles)
    ∧ ∃ ps, NoReset ps ∧ ps.length = Config.resetInitCycles + 1 :=
  ⟨rfl, by decide, ⟨List.replicate Config.resetInitCycles _, noReset_replicate _, by rw [List.length_replicate]⟩, _,
    noReset_replicate _, List.length_replicate⟩
theorem test_witness_ResetCutsTxAfterWholeFrames :
    idleL.engine = .idle ∧ idleL.err = false ∧ decode 0x40000010 = .ok (.tx .full)
    ∧ (∃ ps, NoReset ps ∧ ps.length < Config.txStartLatency + 1485 * Config.bitPeriod)
    ∧ (⟨true, false, 0⟩ : Pins).rst = true :=
  ⟨rfl, by decide, by decide, test_witness_TxWaveform.2.2.2, rfl⟩
theorem test_witness_CutCommandLeavesAFirstPart :
    let s : State := { idleL with inputs := [.cutCommand 0x40000010] }
    s.engine = .idle ∧ s.errCode.toNat ≤ 3 ∧ s.inputs = .cutCommand 0x40000010 :: []
      ∧ entersTx 0x40000010 s = some .full ∧ entersTx 0x10000000 s = none := by decide
theorem test_witness_LegalKeptByEveryStep : ∃ t, Legal idle ∧ step idle = .next t := ⟨idle, idle_legal, rfl⟩
theorem test_witness_LegalStatesRunOn : Legal idle := idle_legal
theorem test_witness_ReservedErrCodeIsStuck :
    (3 < ({ idle with errCode := 4 } : State).errCode.toNat ∧ nextIsReset { idle with errCode := 4 } = false)
      ∧ nextIsReset { idle with errCode := 15, inputs := [.edge ⟨true, false, 0⟩] } = true := by decide

end Sys2Proof.Tests
end

section
/-! PROOFS. The clock level refines the command transaction, and a step runs the decoded instruction (00_scope.md R7).
The laws of the decoder, of the transmit sequence, of the Engine's waits and of a TX on the wire come first; the
statements are settled at the end. -/

namespace Sys2Proof.Machine

/-! ### The decoder -/

/-- A word decodes to an instruction exactly when it matches its candidate row and the operands are the instruction's. -/
theorem decode_eq_ok {w : Word} {i : Instr} :
    decode w = .ok i ↔ matchesRow (candidate w) w = true ∧ operandsOf (candidate w) w = i := by
  unfold decode
  split <;> simp [*]

/-- Bit 4 of a TX word is its mapping mode (30_encoding.md R72). -/
theorem mappingModeOfBit_of_decode_tx {w : Word} {mm : MappingMode} (h : decode w = .ok (.tx mm)) :
    mappingModeOfBit (w.getLsbD 4) = mm := by
  have hops := (decode_eq_ok.mp h).2
  cases hc : candidate w <;> rw [hc] at hops <;> cases hops
  rfl

/-- The opcode table's numbering of a word's bits changes nothing in what it decodes to. -/
theorem decode_of_decodeTableWord {nbits w : Nat} {i : Instr} (h : decodeTableWord nbits w = some i) :
    decode (BitVec.ofNat 32 (w % 2 ^ nbits)) = .ok i := by
  unfold decodeTableWord at h
  split at h
  · next hd => rw [hd, Option.some.inj h]
  · cases h

/-! ### The wire frame -/

/-- The 11 bits of a wire frame give the frame back (42_transmit.md R160). -/
@[simp] theorem frameOfBits_frameBits (f : WireFrame) : frameOfBits (frameBits f) = f := by
  obtain ⟨sel, byte⟩ := f
  have hsel : (frameBits ⟨sel, byte⟩).getLsbD 9 = sel := by
    simp [frameBits]
  have hbyte : (frameBits ⟨sel, byte⟩).extractLsb' 1 8 = byte := by
    ext j hj
    interval_cases j <;> simp [frameBits]
  simp only [frameOfBits, hsel, hbyte]

/-! ### The transmit sequence -/

theorem slotLength_bounds (mm : MappingMode) (s : Fin 9) : 1 ≤ slotLength mm s ∧ slotLength mm s ≤ 16 := by
  cases mm <;> revert s <;> decide

/-- A slot's frames end inside the 135 of `TxBytes`. -/
theorem slotStart_add_slotLength_le (mm : MappingMode) (s : Fin 9) : slotStart s + slotLength mm s ≤ 135 := by
  cases mm <;> revert s <;> decide

/-- Where a slot's frames end the next slot's begin, and the last slot's end the sequence (42_transmit.md R159). -/
theorem slotStart_add_slotLength (mm : MappingMode) (s : Fin 9) :
    slotStart s + slotLength mm s = if s.val < 8 then slotStart (Fin.ofNat 9 (s.val + 1)) else 135 := by
  cases mm <;> revert s <;> decide

@[simp] theorem length_slotFrames (pb : Vector Pixel 42) (mm : MappingMode) (s : Fin 9) :
    (slotFrames pb mm s).length = slotLength mm s := by
  simp [slotFrames, slotLength, pixelFrames, List.length_flatMap]
  omega

@[simp] theorem length_txBytes (pb : Vector Pixel 42) (mm : MappingMode) : (txBytes pb mm).length = 135 := by
  have htotal : (slots.map (slotLength mm)).sum = 135 := by cases mm <;> decide
  simp [txBytes, List.length_flatMap, htotal]

/-- The slots before `s` send `slotStart s` frames (42_transmit.md R159). -/
theorem length_flatMap_slots_before (pb : Vector Pixel 42) (mm : MappingMode) (s : Fin 9) :
    ((slots.take s.val).flatMap (slotFrames pb mm)).length = slotStart s := by
  have hsum : ((slots.take s.val).map (slotLength mm)).sum = slotStart s := by
    cases mm <;> revert s <;> decide
  simp only [List.length_flatMap, length_slotFrames, hsum]

/-- `TxBytes` around the frames of one slot. -/
theorem txBytes_around_slot (pb : Vector Pixel 42) (mm : MappingMode) (s : Fin 9) :
    txBytes pb mm = (slots.take s.val).flatMap (slotFrames pb mm)
      ++ (slotFrames pb mm s ++ (slots.drop (s.val + 1)).flatMap (slotFrames pb mm)) := by
  have hslots : slots = slots.take s.val ++ s :: slots.drop (s.val + 1) := by revert s; decide
  calc txBytes pb mm = (slots.take s.val ++ s :: slots.drop (s.val + 1)).flatMap (slotFrames pb mm) := by
        rw [← hslots]; rfl
    _ = _ := by rw [List.flatMap_append, List.flatMap_cons]

/-- The frame at a position of the sequence is the frame of `TxBytes` at that position's number. -/
theorem getElem?_txBytes_frameIndex (pb : Vector Pixel 42) {mm : MappingMode} {slot : Fin 9} {item : Fin 16}
    (h : item.val < slotLength mm slot) :
    (txBytes pb mm)[frameIndex slot item]? = some (frameAt pb mm slot item) := by
  have hlt : item.val < (slotFrames pb mm slot).length := by simpa using h
  have hbefore := length_flatMap_slots_before pb mm slot
  calc (txBytes pb mm)[frameIndex slot item]?
      = (slotFrames pb mm slot)[item.val]? := by
        rw [txBytes_around_slot pb mm slot, frameIndex, ← hbefore, List.getElem?_append_right (Nat.le_add_right _ _),
          Nat.add_sub_cancel_left, List.getElem?_append_left hlt]
    _ = some (frameAt pb mm slot item) := by
        rw [frameAt, List.getD_eq_getElem _ _ hlt, List.getElem?_eq_getElem hlt]

/-- What is left to send at a position: its frame, then what is left after it. -/
theorem drop_txBytes_frameIndex (pb : Vector Pixel 42) {mm : MappingMode} {slot : Fin 9} {item : Fin 16}
    (h : item.val < slotLength mm slot) :
    (txBytes pb mm).drop (frameIndex slot item)
      = frameAt pb mm slot item :: (txBytes pb mm).drop (frameIndex slot item + 1) := by
  obtain ⟨hlt, hframe⟩ := List.getElem?_eq_some_iff.mp (getElem?_txBytes_frameIndex pb h)
  rw [List.drop_eq_getElem_cons hlt, hframe]

/-- All that can come after a position: the position of the next frame, or, after frame 134, none (42_transmit.md R150,
R157). -/
theorem nextPosition_cases {mm : MappingMode} {slot : Fin 9} {item : Fin 16} (h : item.val < slotLength mm slot) :
    (∃ slot' item', nextPosition mm slot item = some (slot', item') ∧ item'.val < slotLength mm slot'
        ∧ frameIndex slot' item' = frameIndex slot item + 1 ∧ frameIndex slot item < 134)
    ∨ nextPosition mm slot item = none ∧ frameIndex slot item = 134 := by
  have hend := slotStart_add_slotLength mm slot
  have hend_le := slotStart_add_slotLength_le mm slot
  have hlength := (slotLength_bounds mm slot).2
  unfold nextPosition frameIndex
  split
  · next hitem =>
    have hval : (Fin.ofNat 16 (item.val + 1)).val = item.val + 1 := Nat.mod_eq_of_lt (by omega)
    exact .inl ⟨slot, _, rfl, by omega, by omega, by omega⟩
  · split
    · next hslot =>
      rw [if_pos hslot] at hend
      have hnext_le := slotStart_add_slotLength_le mm (Fin.ofNat 9 (slot.val + 1))
      have hnext_length := (slotLength_bounds mm (Fin.ofNat 9 (slot.val + 1))).1
      exact .inl ⟨_, 0, rfl, hnext_length, by rw [Fin.val_zero]; omega, by omega⟩
    · next hslot =>
      rw [if_neg hslot] at hend
      exact .inr ⟨rfl, by omega⟩

/-! ### Waiting -/

/-- How many edges without a reset do nothing but count down the Engine's wait (10_state.md R30). -/
def State.waitLeft (s : State) : Nat :=
  match s.engine with
  | .idle => 0
  | .exec => s.timer - 1
  | .init => s.timer
  | .tx => s.timer

theorem NoReset.head {p : Pins} {ps : List Pins} (h : NoReset (p :: ps)) : p.rst = false := h p List.mem_cons_self

theorem NoReset.tail {p : Pins} {ps : List Pins} (h : NoReset (p :: ps)) : NoReset ps :=
  fun q hq => h q (List.mem_cons_of_mem p hq)

/-- One edge of a wait that is not over. -/
theorem clockEdge_waiting {p : Pins} {s : State} (hp : p.rst = false) (h : 0 < s.waitLeft) :
    clockEdge p s = .next { s with timer := s.timer - 1 } := by
  unfold State.waitLeft at h
  split at h
  · cases h
  · next he => rw [clockEdge_exec hp he, if_neg (by omega)]
  · next he => rw [clockEdge_init hp he, if_neg (by omega)]
  · next he => rw [clockEdge_tx hp he, if_neg (by omega)]

/-- Each edge of a wait leaves one edge less of it. -/
theorem waitLeft_countDown (s : State) (n : Nat) : { s with timer := s.timer - n }.waitLeft = s.waitLeft - n := by
  unfold State.waitLeft
  cases s.engine <;> simp only <;> omega

/-- The edges of a wait change the count of cycles left and nothing else, whatever the host does on the command port. -/
theorem clockRun_waiting {ps : List Pins} {s : State} (hps : NoReset ps) (h : ps.length ≤ s.waitLeft) :
    clockRun ps s = .next { s with timer := s.timer - ps.length } := by
  induction ps generalizing s with
  | nil => rfl
  | cons p ps ih =>
    rw [List.length_cons] at h
    rw [clockRun_cons, clockEdge_waiting hps.head (by omega), andThen_next,
      ih hps.tail (by rw [waitLeft_countDown]; omega)]
    simp only [List.length_cons, Nat.sub_sub, Nat.add_comm]

/-- Edges without a reset, cut after the first `n`. -/
theorem NoReset.cut {ps : List Pins} {n : Nat} (h : NoReset ps) (hn : n ≤ ps.length) :
    ∃ qs rs, ps = qs ++ rs ∧ NoReset qs ∧ NoReset rs ∧ qs.length = n ∧ rs.length = ps.length - n :=
  ⟨ps.take n, ps.drop n, (List.take_append_drop n ps).symm, fun p hp => h p (List.mem_of_mem_take hp),
    fun p hp => h p (List.mem_of_mem_drop hp), List.length_take_of_le hn, List.length_drop⟩

/-- Edges without a reset, cut before the last. -/
theorem NoReset.cutLast {ps : List Pins} (h : NoReset ps) (hpos : 0 < ps.length) :
    ∃ qs p, ps = qs ++ [p] ∧ NoReset qs ∧ p.rst = false ∧ qs.length + 1 = ps.length := by
  obtain ⟨qs, rs, hcut, hqs, hrs, hqlen, hrlen⟩ := h.cut (Nat.sub_le ps.length 1)
  obtain ⟨p, rfl⟩ := List.length_eq_one_iff.mp (show rs.length = 1 by omega)
  exact ⟨qs, p, hcut, hqs, hrs.head, by omega⟩

/-! ### A TX on the wire -/

/-- A TX whose first start bit is on the line: what its clock edges keep until it ends (10_state.md R31). -/
structure Sending (s : State) : Prop where
  engine : s.engine = .tx
  started : s.timer = 0
  baud : s.seq.baudCnt < Config.bitPeriod
  position : s.seq.item.val < slotLength s.txMode s.seq.slot
  shifting : s.seq.shreg = frameBits (frameAt s.pb s.txMode s.seq.slot s.seq.item)

/-- How many cycles the line has been driven since the first start bit (42_transmit.md R163). -/
def State.cyclesSent (s : State) : Nat :=
  (11 * frameIndex s.seq.slot s.seq.item + s.seq.bitIdx.val) * Config.bitPeriod + s.seq.baudCnt

/-- The frames a TX in progress still has to send, the one on the line first. -/
def State.txRest (s : State) : List WireFrame := (txBytes s.pb s.txMode).drop (frameIndex s.seq.slot s.seq.item)

/-- The end of a TX that has `rest` still to send. -/
def finishTx (rest : List WireFrame) (s : State) : State :=
  { { s with wire := s.wire ++ rest }.releaseSequencer with engine := .idle, timer := 0 }

/-- The state the TX in progress ends in: the frames still to send are in the trace, and the Engine is IDLE. -/
def State.txResult (s : State) : State := finishTx s.txRest s

/-- A frame that has joined the trace need not be sent again, and the sequencer is free at the end. -/
theorem finishTx_cons (f : WireFrame) (rest : List WireFrame) (s : State) (q : Sequencer) :
    finishTx (f :: rest) s = finishTx rest { s with wire := s.wire ++ [f], seq := q } := by
  rw [finishTx, List.append_cons]
  rfl

/-- Waiting for a TX leaves its result (log 21). -/
theorem runToIdle_tx {s : State} (h : s.engine = .tx) : runToIdle s = .next s.txResult := by
  rw [runToIdle, h]
  rfl

/-- The next cycle of the bit on the line. -/
theorem serialEdge_nextCycle {s : State} (h : s.seq.baudCnt + 1 < Config.bitPeriod) :
    serialEdge s = { s with seq := { s.seq with baudCnt := s.seq.baudCnt + 1 } } := if_pos h

/-- The next bit of the frame, after the last cycle of a bit. -/
theorem serialEdge_nextBit {s : State} (h : Config.bitPeriod ≤ s.seq.baudCnt + 1) (hbit : s.seq.bitIdx.val < 10) :
    serialEdge s = { s with seq := { s.seq with bitIdx := Fin.ofNat 11 (s.seq.bitIdx.val + 1), baudCnt := 0 } } := by
  rw [serialEdge, if_neg (Nat.not_lt.mpr h), if_pos hbit]

/-- The next frame, after the last cycle of a stop bit: the frame sent joins the trace. -/
theorem serialEdge_nextFrame {s : State} {slot : Fin 9} {item : Fin 16} (h : Config.bitPeriod ≤ s.seq.baudCnt + 1)
    (hbit : 10 ≤ s.seq.bitIdx.val) (hnext : nextPosition s.txMode s.seq.slot s.seq.item = some (slot, item)) :
    serialEdge s
      = { s with wire := s.wire ++ [frameOfBits s.seq.shreg], seq := loadFrame s s.txMode slot item } := by
  rw [serialEdge, if_neg (Nat.not_lt.mpr h), if_neg (Nat.not_lt.mpr hbit), hnext]

/-- The end of the TX, after the last cycle of the last stop bit. -/
theorem serialEdge_end {s : State} (h : Config.bitPeriod ≤ s.seq.baudCnt + 1) (hbit : 10 ≤ s.seq.bitIdx.val)
    (hstarted : s.timer = 0) (hnext : nextPosition s.txMode s.seq.slot s.seq.item = none) :
    serialEdge s = finishTx [frameOfBits s.seq.shreg] s := by
  rw [serialEdge, if_neg (Nat.not_lt.mpr h), if_neg (Nat.not_lt.mpr hbit), hnext, finishTx, ← hstarted]
  rfl

/-- After the last cycle of a bit the line has been driven for a whole number of bit-times. -/
theorem cyclesSent_succ_of_bitEnd {s : State} (h : s.seq.baudCnt + 1 = Config.bitPeriod) :
    s.cyclesSent + 1 = (11 * frameIndex s.seq.slot s.seq.item + s.seq.bitIdx.val + 1) * Config.bitPeriod := by
  rw [Nat.succ_mul (11 * frameIndex s.seq.slot s.seq.item + s.seq.bitIdx.val), ← h, State.cyclesSent, ← h, Nat.add_assoc]

/-- What is left to send of a TX on the wire: the frame in `shreg`, then what is left after it. -/
theorem Sending.txRest_eq {s : State} (h : Sending s) :
    s.txRest = frameOfBits s.seq.shreg
      :: (txBytes s.pb s.txMode).drop (frameIndex s.seq.slot s.seq.item + 1) := by
  rw [h.shifting, frameOfBits_frameBits]
  exact drop_txBytes_frameIndex s.pb h.position

/-- While a TX is on the wire its line has been driven for less than 135 frames of 11 bit-times. -/
theorem Sending.cyclesSent_lt {s : State} (h : Sending s) : s.cyclesSent < 1485 * Config.bitPeriod := by
  have hbit := s.seq.bitIdx.isLt
  have hframe : frameIndex s.seq.slot s.seq.item ≤ 134 := by
    obtain ⟨-, -, -, -, -, hlt⟩ | ⟨-, hlast⟩ := nextPosition_cases h.position <;> omega
  calc s.cyclesSent
      < (11 * frameIndex s.seq.slot s.seq.item + s.seq.bitIdx.val) * Config.bitPeriod + Config.bitPeriod :=
        Nat.add_lt_add_left h.baud _
    _ = (11 * frameIndex s.seq.slot s.seq.item + s.seq.bitIdx.val + 1) * Config.bitPeriod := (Nat.succ_mul _ _).symm
    _ ≤ 1485 * Config.bitPeriod := Nat.mul_le_mul_right _ (by omega)

/-- All that an edge of a TX on the wire can do: one cycle more with the same result ahead, or, at cycle
1485 * BIT_PERIOD, the result (42_transmit.md R163). -/
theorem serialEdge_cases {s : State} (h : Sending s) :
    (Sending (serialEdge s) ∧ (serialEdge s).cyclesSent = s.cyclesSent + 1 ∧ (serialEdge s).txResult = s.txResult)
    ∨ s.cyclesSent + 1 = 1485 * Config.bitPeriod ∧ serialEdge s = s.txResult := by
  have hrest := h.txRest_eq
  obtain ⟨hengine, hstarted, hbaud, hposition, hshifting⟩ := h
  by_cases hcycle : s.seq.baudCnt + 1 < Config.bitPeriod
  · rw [serialEdge_nextCycle hcycle]
    exact .inl ⟨⟨hengine, hstarted, hcycle, hposition, hshifting⟩, rfl, rfl⟩
  have hbitEnd : s.seq.baudCnt + 1 = Config.bitPeriod := by omega
  have hcycles := cyclesSent_succ_of_bitEnd hbitEnd
  by_cases hbit : s.seq.bitIdx.val < 10
  · have hval : (Fin.ofNat 11 (s.seq.bitIdx.val + 1)).val = s.seq.bitIdx.val + 1 := Nat.mod_eq_of_lt (by omega)
    rw [serialEdge_nextBit hbitEnd.ge hbit]
    refine .inl ⟨⟨hengine, hstarted, Nat.succ_pos _, hposition, hshifting⟩, ?_, rfl⟩
    rw [hcycles, State.cyclesSent, hval, Nat.add_zero, Nat.add_assoc]
  have hstopBit : s.seq.bitIdx.val = 10 := by omega
  obtain ⟨slot, item, hnext, hposition', hframe, -⟩ | ⟨hnext, hframe⟩ := nextPosition_cases hposition
  · rw [serialEdge_nextFrame hbitEnd.ge hstopBit.ge hnext]
    refine .inl ⟨⟨hengine, hstarted, Nat.succ_pos _, hposition', rfl⟩, ?_, ?_⟩
    · rw [hcycles, hstopBit, State.cyclesSent]
      simp only [loadFrame, hframe, Fin.val_zero, Nat.mul_succ, Nat.add_zero, Nat.add_assoc]
    · rw [State.txResult, State.txResult, hrest, ← hframe]
      exact (finishTx_cons _ _ s _).symm
  · rw [hframe, List.drop_of_length_le (by simp)] at hrest
    rw [serialEdge_end hbitEnd.ge hstopBit.ge hstarted hnext]
    exact .inr ⟨by rw [hcycles, hframe, hstopBit], by rw [State.txResult, hrest]⟩

/-- Over the edges of a TX on the wire, whatever the host does on the command port, the line is driven on with the same
result ahead. -/
theorem clockRun_sending {ps : List Pins} {s : State} (h : Sending s) (hps : NoReset ps)
    (hlt : s.cyclesSent + ps.length < 1485 * Config.bitPeriod) :
    ∃ t, clockRun ps s = .next t ∧ Sending t ∧ t.cyclesSent = s.cyclesSent + ps.length ∧ t.txResult = s.txResult := by
  induction ps generalizing s with
  | nil => exact ⟨s, rfl, h, rfl, rfl⟩
  | cons p ps ih =>
    rw [List.length_cons] at hlt ⊢
    rw [clockRun_cons, clockEdge_tx hps.head h.engine, if_pos h.started, andThen_next]
    obtain ⟨hsending, hcycles, hresult⟩ | ⟨hcycles, -⟩ := serialEdge_cases h
    · obtain ⟨t, hrun, ht, htcycles, htresult⟩ := ih hsending hps.tail (by omega)
      exact ⟨t, hrun, ht, by omega, htresult.trans hresult⟩
    · omega

/-- At cycle 1485 * BIT_PERIOD of its line a TX ends in its result. -/
theorem clockRun_sending_to_end {ps : List Pins} {s : State} (h : Sending s) (hps : NoReset ps)
    (hlen : s.cyclesSent + ps.length = 1485 * Config.bitPeriod) : clockRun ps s = .next s.txResult := by
  have hlt := h.cyclesSent_lt
  obtain ⟨qs, p, rfl, hqs, hp, hqlen⟩ := hps.cutLast (by omega)
  obtain ⟨t, hrun, ht, hcycles, hresult⟩ := clockRun_sending h hqs (by omega)
  rw [clockRun_append, hrun, andThen_next, clockRun_cons, clockEdge_tx hp ht.engine, if_pos ht.started, ← hresult]
  obtain ⟨hsending, hcycles', -⟩ | ⟨-, hend⟩ := serialEdge_cases ht
  · have := hsending.cyclesSent_lt
    omega
  · rw [hend, andThen_next, clockRun_nil]

/-! ### An accepted TX -/

/-- The edge that accepts a word while the Engine is IDLE (10_state.md R33). -/
theorem clockEdge_offerEdge {s : State} (w : Word) (h : s.engine = .idle) :
    clockEdge (offerEdge w) s = .next (acceptEdge w s) := clockEdge_idle rfl h

/-- The first cycle of the first start bit of the TX `w`, accepted in `s` (42_transmit.md R163). -/
def State.startOfTx (s : State) (w : Word) (mm : MappingMode) : State :=
  { s with engine := .tx, cmd := w, timer := 0, seq := loadFrame s mm 0 0 }

/-- A TX accepted with ERR = 0 loads its first frame and waits for its first start bit. -/
theorem acceptEdge_tx {w : Word} {s : State} {mm : MappingMode} (herr : s.err = false) (hw : decode w = .ok (.tx mm)) :
    acceptEdge w s = { s.startOfTx w mm with timer := Config.txStartLatency } := by
  rw [acceptEdge, entersTx_eq_some.mpr ⟨herr, hw⟩]
  rfl

theorem startOfTx_txMode {w : Word} {mm : MappingMode} (s : State) (hw : decode w = .ok (.tx mm)) :
    (s.startOfTx w mm).txMode = mm := mappingModeOfBit_of_decode_tx hw

theorem startOfTx_cyclesSent (s : State) (w : Word) (mm : MappingMode) : (s.startOfTx w mm).cyclesSent = 0 := by
  simp [State.cyclesSent, State.startOfTx, loadFrame, frameIndex, slotStart]

theorem startOfTx_sending {w : Word} {mm : MappingMode} (s : State) (hw : decode w = .ok (.tx mm)) :
    Sending (s.startOfTx w mm) where
  engine := rfl
  started := rfl
  baud := Nat.succ_pos _
  position := (slotLength_bounds _ 0).1
  shifting := by rw [startOfTx_txMode s hw]; rfl

/-- The result of an accepted TX has its whole frame in the trace. -/
theorem startOfTx_txResult {w : Word} {mm : MappingMode} (s : State) (hw : decode w = .ok (.tx mm)) :
    (s.startOfTx w mm).txResult = finishTx (txBytes s.pb mm) (s.startOfTx w mm) := by
  rw [State.txResult, State.txRest, startOfTx_txMode s hw]
  rfl

/-- The edges from the acceptance of a TX to its first start bit. -/
theorem clockRun_to_startOfTx {w : Word} {s : State} {mm : MappingMode} {ps : List Pins} (he : s.engine = .idle)
    (herr : s.err = false) (hw : decode w = .ok (.tx mm)) (hps : NoReset ps) (hlen : ps.length = Config.txStartLatency) :
    clockRun (offerEdge w :: ps) s = .next (s.startOfTx w mm) := by
  have hwait := clockRun_waiting (s := { s.startOfTx w mm with timer := Config.txStartLatency }) hps hlen.le
  rw [clockRun_cons, clockEdge_offerEdge w he, andThen_next, acceptEdge_tx herr hw, hwait, hlen, Nat.sub_self]
  rfl

/-- An accepted TX from the edge that accepts it to its end (42_transmit.md R163). -/
theorem clockRun_tx {w : Word} {s : State} {mm : MappingMode} {ps : List Pins} (he : s.engine = .idle)
    (herr : s.err = false) (hw : decode w = .ok (.tx mm)) (hps : NoReset ps)
    (hlen : ps.length = Config.txStartLatency + 1485 * Config.bitPeriod) :
    clockRun (offerEdge w :: ps) s = .next (finishTx (txBytes s.pb mm) (s.startOfTx w mm)) := by
  obtain ⟨waiting, sending, rfl, hwaiting, hsending, hwaitLen, hsendLen⟩ :=
    hps.cut (n := Config.txStartLatency) (by omega)
  rw [← List.cons_append, clockRun_append, clockRun_to_startOfTx he herr hw hwaiting hwaitLen, andThen_next,
    clockRun_sending_to_end (startOfTx_sending s hw) hsending (by rw [startOfTx_cyclesSent]; omega),
    startOfTx_txResult s hw]

/-- TX with ERR = 0 as a transaction. -/
theorem exec_tx (mm : MappingMode) {s : State} (h : s.err = false) :
    exec (.tx mm) s = .next ({ s with wire := s.wire ++ txBytes s.pb mm }.releaseSequencer) := unlessFaulted_of_clear h _

/-! ### A word in EXEC -/

/-- The state with the Engine's own registers, its state, its word and its wait, as given. -/
def State.withEngine (s : State) (e : EngineState) (w : Word) (n : Nat) : State :=
  { s with engine := e, cmd := w, timer := n }

/-- Writes the Engine's own registers into the state a result answers. -/
def resultWithEngine (e : EngineState) (w : Word) (n : Nat) (r : Result) : Result :=
  andThen r fun t => .next (t.withEngine e w n)

section
variable (e : EngineState) (c : Word) (n : Nat) (s : State)

theorem resultWithEngine_unlessFaulted (effect : Result) :
    resultWithEngine e c n (unlessFaulted s effect)
      = unlessFaulted (s.withEngine e c n) (resultWithEngine e c n effect) := by
  cases h : s.err with
  | true => rw [unlessFaulted_of_faulted h, unlessFaulted_of_faulted (s := s.withEngine e c n) h]; rfl
  | false => rw [unlessFaulted_of_clear h, unlessFaulted_of_clear (s := s.withEngine e c n) h]

theorem resultWithEngine_withIndex (idx : BitVec 7) (effect : Fin 42 → Result) :
    resultWithEngine e c n (withIndex idx s effect)
      = withIndex idx (s.withEngine e c n) fun i => resultWithEngine e c n (effect i) := by
  unfold withIndex
  cases indexOf idx <;> rfl

theorem resultWithEngine_withChannel (ch : ChannelField) (effect : Channel → Result) :
    resultWithEngine e c n (withChannel ch s effect)
      = withChannel ch (s.withEngine e c n) fun d => resultWithEngine e c n (effect d) := by
  unfold withChannel
  cases channelOf ch <;> rfl

/-- No command reads or writes the Engine's own registers: the operand checks hand them through, and so does every
effect. -/
theorem exec_withEngine (i : Instr) : exec i (s.withEngine e c n) = resultWithEngine e c n (exec i s) := by
  cases i with
  | nop => simp only [exec, execNop, resultWithEngine_unlessFaulted]; rfl
  | fill colour => simp only [exec, execFill, resultWithEngine_unlessFaulted]; rfl
  | shift dir mm => simp only [exec, execShift, resultWithEngine_unlessFaulted]; rfl
  | tx mm => simp only [exec, execTx, resultWithEngine_unlessFaulted]; rfl
  | wrpix idx colour =>
    simp only [exec, execWrpix, resultWithEngine_unlessFaulted, resultWithEngine_withIndex]; rfl
  | rdpix idx => simp only [exec, execRdpix, resultWithEngine_unlessFaulted, resultWithEngine_withIndex]; rfl
  | fade ch amount fm =>
    simp only [exec, execFade, resultWithEngine_unlessFaulted, resultWithEngine_withChannel]; rfl
  | wrch idx ch value =>
    simp only [exec, execWrch, resultWithEngine_unlessFaulted, resultWithEngine_withChannel,
      resultWithEngine_withIndex]; rfl
  | rdch idx ch =>
    simp only [exec, execRdch, resultWithEngine_unlessFaulted, resultWithEngine_withChannel,
      resultWithEngine_withIndex]; rfl

/-- No accepted word reads or writes the Engine's own registers. -/
theorem runWord_withEngine (w : Word) : runWord w (s.withEngine e c n) = resultWithEngine e c n (runWord w s) := by
  have herr : (s.withEngine e c n).err = s.err := rfl
  unfold runWord
  rw [herr]
  split
  · rfl
  · split
    · rfl
    · exact exec_withEngine e c n s _

end

/-- An accepted word always leaves a next state, the Engine where it was. -/
theorem runWord_next (w : Word) (s : State) : ∃ t, runWord w s = .next t ∧ t.engine = s.engine := by
  obtain ⟨-, h⟩ | ⟨-, e, -, h⟩ | ⟨-, i, -, h⟩ := runWord_cases w s
  · exact ⟨s, h, rfl⟩
  · exact ⟨_, h, rfl⟩
  · rw [h]
    obtain h | ⟨-, t, h, ht⟩ := exec_cases i s
    · exact ⟨s, h, rfl⟩
    · refine ⟨t, h, ?_⟩
      obtain rfl | rfl | ⟨pb, rfl⟩ | ⟨-, v, rfl⟩ | ⟨mm, -, rfl⟩ := ht <;> rfl

/-- A word accepted for EXEC waits EXEC_LATENCY cycles. -/
theorem acceptEdge_exec {w : Word} {s : State} (h : entersTx w s = none) :
    acceptEdge w s = s.withEngine .exec w (Config.execLatency s.err w) := by
  rw [acceptEdge, h]
  rfl

/-- A word accepted for EXEC is in EXEC for EXEC_LATENCY cycles (70_reset_and_hazards.md R239). -/
theorem clockRun_exec {w : Word} {s : State} {ps : List Pins} (he : s.engine = .idle) (hw : entersTx w s = none)
    (hps : NoReset ps) (hlt : ps.length < Config.execLatency s.err w) :
    clockRun (offerEdge w :: ps) s
      = .next (s.withEngine .exec w (Config.execLatency s.err w - ps.length)) := by
  have hwait := clockRun_waiting (s := s.withEngine .exec w (Config.execLatency s.err w)) hps (Nat.le_sub_one_of_lt hlt)
  rw [clockRun_cons, clockEdge_offerEdge w he, andThen_next, acceptEdge_exec hw, hwait]
  rfl

/-- The end of EXEC leaves what the word leaves as a transaction, but for the Engine's own registers and the draws used up. -/
theorem finishExec_withEngine {w : Word} {s u : State} (n : Nat) (h : runWord w s = .next u) :
    finishExec (s.withEngine .exec w n) = .next { u with engine := .idle, cmd := w, timer := 0, draws := u.draws + 1 } := by
  have hcmd : (s.withEngine .exec w n).cmd = w := rfl
  rw [finishExec, hcmd, runWord_withEngine, h]
  rfl

/-- A word accepted for EXEC from the edge that accepts it to its end. -/
theorem clockRun_exec_to_end {w : Word} {s u : State} {ps : List Pins} (he : s.engine = .idle)
    (hw : entersTx w s = none) (hps : NoReset ps) (hlen : ps.length = Config.execLatency s.err w)
    (hu : runWord w s = .next u) :
    clockRun (offerEdge w :: ps) s
      = .next { u with engine := .idle, cmd := w, timer := 0, draws := u.draws + 1 } := by
  have hpos : 0 < ps.length := hlen ▸ Nat.succ_pos _
  obtain ⟨qs, p, rfl, hqs, hp, hqlen⟩ := hps.cutLast hpos
  have hone : (s.withEngine .exec w (Config.execLatency s.err w - qs.length)).timer ≤ 1 := by
    simp only [State.withEngine]
    omega
  rw [← List.cons_append, clockRun_append, clockRun_exec he hw hqs (by omega), andThen_next, clockRun_cons,
    clockEdge_exec hp rfl, if_pos hone, finishExec_withEngine _ hu, andThen_next, clockRun_nil]

/-! ### A step -/

/-- With the Engine IDLE and no reserved ERR_CODE a step runs the word offered first (10_state.md R33; log 1). -/
theorem step_command {s : State} {w : Word} {rest : List HostAction} (he : s.engine = .idle)
    (hcode : s.errCode.toNat ≤ 3) (hin : s.inputs = .command w :: rest) :
    step s = runWord w { s with inputs := rest } := by
  have hstuck : s.stuck = false := by simp [State.stuck, hcode]
  simp [step, hstuck, hostStep, hin, whenReady, he]

/-- With ERR = 0 a word that decodes runs as its instruction. -/
theorem runWord_of_decode {w : Word} {s : State} {i : Instr} (herr : s.err = false) (hw : decode w = .ok i) :
    runWord w s = exec i s := by
  simp [runWord, herr, hw]

/-! ### The statements -/

/-- Settles O45: the edges of a TX end in `finishTx`, which shows what `exec` leaves. -/
theorem txClockRefinesTransaction : Obligations.TxClockRefinesTransaction := by
  intro s w mm ps he herr hw hps hlen
  refine ⟨_, _, clockRun_tx he herr hw hps hlen, exec_tx mm herr, rfl, rfl, ?_⟩
  simp [State.observe, State.status, State.busy, State.cmdReady, State.txact, finishTx, State.startOfTx, he]

/-- Settles O46: EXEC counts down, and its last edge does what `runWord` does. -/
theorem execClockRefinesTransaction : Obligations.ExecClockRefinesTransaction := by
  intro s w ps he hw hps
  refine ⟨fun hlt => ⟨_, clockRun_exec he hw hps hlt, rfl, rfl, rfl⟩, fun hlen => ?_⟩
  obtain ⟨u, hu, hengine⟩ := runWord_next w s
  refine ⟨_, u, clockRun_exec_to_end he hw hps hlen hu, hu, rfl, ?_⟩
  rw [he] at hengine
  simp [State.observe, State.status, State.busy, State.cmdReady, State.txact, hengine]

/-- Settles O8: the step runs the word, and the word decodes to the instruction. -/
theorem stepRunsTheDecodedInstruction : Obligations.StepRunsTheDecodedInstruction := by
  intro s w rest i he herr hcode hin hw
  rw [step_command he hcode hin]
  exact runWord_of_decode herr hw

/-- Settles O9, as the step of O8 from the state `withFetchWord` gives. -/
theorem fetchedWordRunsFirstAfterReset : Obligations.FetchedWordRunsFirstAfterReset := by
  intro w i hw
  exact stepRunsTheDecodedInstruction (State.reset.withFetchWord 32 w) _ [] i rfl rfl (Nat.zero_le _) rfl
    (decode_of_decodeTableWord hw)

end Sys2Proof.Machine
end

section
/-! PROOFS. What every step keeps, and what the ports show (10_state.md). First what an accepted word leaves, then every
change one step can make to the state (`EngineMove`, `step_moves`) with what each keeps, the STATUS word and the ports,
the wait for `cmd_ready` as clock edges, and the legal states; the statements are settled at the end. -/

namespace Sys2Proof.Machine

/-! ### What an accepted word leaves -/

/-- The word decodes to one of the two commands that write RDATA (10_state.md R25). -/
def ReadsBuffer (w : Word) : Prop :=
  (∃ idx, decode w = .ok (.rdpix idx)) ∨ ∃ idx ch, decode w = .ok (.rdch idx ch)

/-- An accepted word is discarded while ERR = 1 (60_exceptions.md R203). -/
theorem runWord_of_faulted {s : State} (w : Word) (h : s.err = true) : runWord w s = .next s := by
  simp [runWord, h]

/-- All the states an accepted word can leave. -/
theorem runWord_leaves {w : Word} {s t : State} (h : runWord w s = .next t) :
    t = s
    ∨ s.err = false ∧ ((∃ e, t = raiseError e s) ∨ (∃ pb, t = { s with pb := pb })
        ∨ ReadsBuffer w ∧ (∃ v, t = s.setRdata v)
        ∨ ∃ mm, t = { s with wire := s.wire ++ txBytes s.pb mm }.releaseSequencer) := by
  obtain ⟨-, hrun⟩ | ⟨herr, e, -, hrun⟩ | ⟨-, i, hw, hrun⟩ := runWord_cases w s <;> rw [hrun] at h
  · cases h
    exact .inl rfl
  · cases h
    exact .inr ⟨herr, .inl ⟨e, rfl⟩⟩
  · obtain hexec | ⟨herr, u, hexec, hu⟩ := exec_cases i s <;> rw [hexec] at h <;> cases h
    · exact .inl rfl
    · refine .inr ⟨herr, ?_⟩
      obtain hchannel | hindex | hbuffer | ⟨hread, hrdata⟩ | ⟨mm, -, htx⟩ := hu
      · exact .inl ⟨_, hchannel⟩
      · exact .inl ⟨_, hindex⟩
      · exact .inr (.inl hbuffer)
      · refine .inr (.inr (.inl ⟨?_, hrdata⟩))
        obtain ⟨idx, rfl⟩ | ⟨idx, ch, rfl⟩ := hread
        · exact .inl ⟨idx, hw⟩
        · exact .inr ⟨idx, ch, hw⟩
      · exact .inr (.inr (.inr ⟨mm, htx⟩))

/-- An accepted word leaves the Engine's own registers alone. -/
theorem runWord_engine_timer {w : Word} {s t : State} (h : runWord w s = .next t) :
    t.engine = s.engine ∧ t.timer = s.timer := by
  obtain rfl | ⟨-, ⟨e, rfl⟩ | ⟨pb, rfl⟩ | ⟨-, v, rfl⟩ | ⟨mm, rfl⟩⟩ := runWord_leaves h <;> exact ⟨rfl, rfl⟩

/-- An accepted word only adds to the trace (10_state.md R34). -/
theorem runWord_wire_prefix {w : Word} {s t : State} (h : runWord w s = .next t) : s.wire <+: t.wire := by
  obtain rfl | ⟨-, ⟨e, rfl⟩ | ⟨pb, rfl⟩ | ⟨-, v, rfl⟩ | ⟨mm, rfl⟩⟩ := runWord_leaves h
  case inr.inr.inr.inr => exact List.prefix_append _ _
  all_goals exact List.prefix_rfl

/-- Only RDPIX and RDCH, run with ERR = 0, write RDATA (10_state.md R25). -/
theorem runWord_rdata_ne {w : Word} {s t : State} (h : runWord w s = .next t) (hne : t.rdata ≠ s.rdata) :
    s.err = false ∧ ReadsBuffer w := by
  obtain rfl | ⟨herr, ⟨e, rfl⟩ | ⟨pb, rfl⟩ | ⟨hread, -⟩ | ⟨mm, rfl⟩⟩ := runWord_leaves h
  case inr.inr.inr.inl => exact ⟨herr, hread⟩
  all_goals exact absurd rfl hne

/-- The codes of the errors are 1 to 3 (60_exceptions.md R200). -/
theorem errorBits_legal (e : ErrorCode) : (errorBits e).toNat ≤ 3 ∧ errorBits e ≠ 0 := by
  cases e <;> decide

theorem StatusLegal.raiseError (e : ErrorCode) (s : State) : StatusLegal (raiseError e s) :=
  ⟨(errorBits_legal e).1, fun h => Bool.noConfusion h, fun h => absurd h (errorBits_legal e).2⟩

/-- An accepted word keeps ERR and ERR_CODE legal (60_exceptions.md R200). -/
theorem StatusLegal.runWord {w : Word} {s t : State} (hs : StatusLegal s) (h : runWord w s = .next t) :
    StatusLegal t := by
  obtain rfl | ⟨-, ⟨e, rfl⟩ | ⟨pb, rfl⟩ | ⟨-, v, rfl⟩ | ⟨mm, rfl⟩⟩ := runWord_leaves h
  case inr.inl => exact .raiseError e s
  all_goals exact hs

/-- The free values of the sequencer are in range (log 5). -/
theorem freeSequencer_baudCnt_lt (draw : Nat) : (freeSequencer draw).baudCnt < Config.bitPeriod :=
  Nat.mod_lt _ (Nat.succ_pos _)

/-- An accepted word keeps `baud_cnt` in its range (10_state.md R31). -/
theorem runWord_baudCnt_lt {w : Word} {s t : State} (hs : s.seq.baudCnt < Config.bitPeriod)
    (h : runWord w s = .next t) : t.seq.baudCnt < Config.bitPeriod := by
  obtain rfl | ⟨-, ⟨e, rfl⟩ | ⟨pb, rfl⟩ | ⟨-, v, rfl⟩ | ⟨mm, rfl⟩⟩ := runWord_leaves h
  case inr.inr.inr.inr => exact freeSequencer_baudCnt_lt _
  all_goals exact hs

/-! ### The error of a word -/

/-- What the operand checks make of a command run with ERR = 0: the first error there is, BAD_CHANNEL before INDEX_RANGE,
or a next state with ERR and ERR_CODE as they were (30_encoding.md R75). -/
structure ChecksOperands (channelOk indexOk : Bool) (s : State) (r : Result) : Prop where
  badChannel : channelOk = false → r = .next (raiseError .badChannel s)
  indexRange : channelOk = true → indexOk = false → r = .next (raiseError .indexRange s)
  noError : channelOk = true → indexOk = true → ∃ t, r = .next t ∧ t.err = s.err ∧ t.errCode = s.errCode

theorem ChecksOperands.next {s t : State} (herr : t.err = s.err) (hcode : t.errCode = s.errCode) :
    ChecksOperands true true s (.next t) :=
  ⟨fun h => Bool.noConfusion h, fun _ h => Bool.noConfusion h, fun _ _ => ⟨t, rfl, herr, hcode⟩⟩

theorem ChecksOperands.withIndex (idx : BitVec 7) {s : State} {effect : Fin 42 → Result}
    (h : ∀ i, ChecksOperands true true s (effect i)) :
    ChecksOperands true (decide (idx.toNat < 42)) s (withIndex idx s effect) := by
  obtain ⟨i, hi, hrun⟩ | ⟨hi, hrun⟩ := withIndex_cases idx s effect
  · rw [hrun, decide_eq_true (hi ▸ i.isLt)]
    exact h i
  · rw [hrun, decide_eq_false (Nat.not_lt.mpr hi)]
    exact ⟨fun h => Bool.noConfusion h, fun _ _ => rfl, fun _ h => Bool.noConfusion h⟩

theorem ChecksOperands.withChannel (ch : ChannelField) {s : State} {indexOk : Bool} {effect : Channel → Result}
    (h : ∀ c, ChecksOperands true indexOk s (effect c)) :
    ChecksOperands (ch != .noChannel) indexOk s (withChannel ch s effect) := by
  obtain ⟨c, hc, hrun⟩ | ⟨rfl, hrun⟩ := withChannel_cases ch s effect
  · have hok : (ch != .noChannel) = true := by
      rw [bne_iff_ne, Ne, ← channelOf_eq_none, hc]
      exact Option.some_ne_none c
    rw [hrun, hok]
    exact h c
  · exact ⟨fun _ => hrun, fun h => Bool.noConfusion h, fun h => Bool.noConfusion h⟩

/-- Every command checks its operands, the channel before the index (60_exceptions.md R204). -/
theorem exec_checksOperands (i : Instr) {s : State} (h : s.err = false) :
    ChecksOperands i.channelOk i.indexOk s (exec i s) := by
  cases i with
  | nop => rw [exec, execNop, unlessFaulted_of_clear h]; exact .next rfl rfl
  | fill colour => rw [exec, execFill, unlessFaulted_of_clear h]; exact .next rfl rfl
  | shift dir mm => rw [exec, execShift, unlessFaulted_of_clear h]; exact .next rfl rfl
  | tx mm => rw [exec, execTx, unlessFaulted_of_clear h]; exact .next rfl rfl
  | wrpix idx colour =>
    rw [exec, execWrpix, unlessFaulted_of_clear h]; exact .withIndex idx fun _ => .next rfl rfl
  | rdpix idx => rw [exec, execRdpix, unlessFaulted_of_clear h]; exact .withIndex idx fun _ => .next rfl rfl
  | fade ch amount fm =>
    rw [exec, execFade, unlessFaulted_of_clear h]; exact .withChannel ch fun _ => .next rfl rfl
  | wrch idx ch value =>
    rw [exec, execWrch, unlessFaulted_of_clear h]
    exact .withChannel ch fun _ => .withIndex idx fun _ => .next rfl rfl
  | rdch idx ch =>
    rw [exec, execRdch, unlessFaulted_of_clear h]
    exact .withChannel ch fun _ => .withIndex idx fun _ => .next rfl rfl

/-- With ERR = 0 the error of an accepted word is the one `decodeChecked` finds, whatever else the state holds. -/
theorem runWord_error {w : Word} {s t : State} (herr : s.err = false) (h : runWord w s = .next t) :
    (∃ e, decodeChecked w = .error e ∧ t = raiseError e s)
    ∨ (∃ i, decodeChecked w = .ok i) ∧ t.err = s.err ∧ t.errCode = s.errCode := by
  unfold decodeChecked
  obtain ⟨hfaulted, -⟩ | ⟨-, e, hw, hrun⟩ | ⟨-, i, hw, hrun⟩ := runWord_cases w s
  · rw [herr] at hfaulted
    cases hfaulted
  · rw [hrun] at h
    cases h
    exact .inl ⟨e, by rw [hw], rfl⟩
  · have hchecks := exec_checksOperands i herr
    rw [← hrun, h] at hchecks
    rw [hw]
    cases hchannel : i.channelOk with
    | false => exact .inl ⟨.badChannel, by simp [hchannel], by simpa using hchecks.badChannel hchannel⟩
    | true =>
      cases hindex : i.indexOk with
      | false =>
        exact .inl ⟨.indexRange, by simp [hchannel, hindex], by simpa using hchecks.indexRange hchannel hindex⟩
      | true =>
        obtain ⟨u, hu, hkept⟩ := hchecks.noError hchannel hindex
        cases hu
        exact .inr ⟨⟨i, by simp [hchannel, hindex]⟩, hkept⟩

/-! ### One change of the machine -/

/-- The end of EXEC leaves what the word leaves, with the Engine IDLE. -/
theorem finishExec_eq_next {s t : State} : finishExec s = .next t ↔
    ∃ u, runWord s.cmd s = .next u ∧ { u with engine := .idle, timer := 0, draws := u.draws + 1 } = t := by
  simp only [finishExec, andThen_eq_next, Host.Outcome.next.injEq]

/-- When an accepted word takes the Engine to EXEC. -/
theorem entersTx_eq_none {w : Word} {s : State} :
    entersTx w s = none ↔ s.err = true ∨ ∀ mm, decode w ≠ .ok (.tx mm) := by
  simp only [Option.eq_none_iff_forall_ne_some, ne_eq, entersTx_eq_some, not_and]
  cases s.err <;> simp

/-- The end of EXEC always answers, and the Engine is IDLE. -/
theorem finishExec_next (s : State) : ∃ t, finishExec s = .next t ∧ t.engine = .idle := by
  obtain ⟨u, hu, -⟩ := runWord_next s.cmd s
  exact ⟨_, finishExec_eq_next.mpr ⟨u, hu, rfl⟩, rfl⟩

/-- All that the edge accepting a word can do: load the first frame of a TX, or wait in EXEC. -/
theorem acceptEdge_cases (w : Word) (s : State) :
    (∃ mm, s.err = false ∧ decode w = .ok (.tx mm)
        ∧ acceptEdge w s = { s.startOfTx w mm with timer := Config.txStartLatency })
    ∨ entersTx w s = none ∧ acceptEdge w s = s.withEngine .exec w (Config.execLatency s.err w) := by
  cases h : entersTx w s with
  | none => exact .inr ⟨rfl, acceptEdge_exec h⟩
  | some mm =>
    obtain ⟨herr, hw⟩ := entersTx_eq_some.mp h
    exact .inl ⟨mm, herr, hw, acceptEdge_tx herr hw⟩

/-- An edge of a TX on the wire changes the sequencer, adds to the trace, or leaves TX for IDLE. -/
theorem serialEdge_leaves {s : State} (h : s.engine = .tx) :
    ∃ q more d e, serialEdge s = { s with seq := q, wire := s.wire ++ more, draws := d, engine := e }
      ∧ (e = .tx ∨ e = .idle) := by
  unfold serialEdge
  split
  · exact ⟨_, [], s.draws, s.engine, by rw [List.append_nil], .inl h⟩
  split
  · exact ⟨_, [], s.draws, s.engine, by rw [List.append_nil], .inl h⟩
  dsimp only
  split
  · exact ⟨_, _, s.draws, s.engine, rfl, .inl h⟩
  · exact ⟨_, _, _, _, rfl, .inr rfl⟩

/-- What one clock edge or one wait can do to the state. -/
inductive EngineMove : State → State → Prop where
  /-- Nothing is offered to an IDLE Engine. -/
  | stay {s : State} (engine : s.engine = .idle) : EngineMove s s
  /-- Reset, a TX having sent the given frames. -/
  | reset (s : State) (sent : List WireFrame) : EngineMove s (resetWith sent s)
  /-- One cycle less of the Engine's wait. -/
  | countDown {s : State} (waiting : 0 < s.waitLeft) : EngineMove s { s with timer := s.timer - 1 }
  /-- INIT ends. -/
  | endInit {s : State} (engine : s.engine = .init) : EngineMove s (finishInit s)
  /-- A word is accepted for EXEC. -/
  | acceptExec {s : State} {w : Word} (engine : s.engine = .idle) (noTx : entersTx w s = none) :
      EngineMove s (s.withEngine .exec w (Config.execLatency s.err w))
  /-- A TX is accepted. -/
  | acceptTx {s : State} {w : Word} {mm : MappingMode} (engine : s.engine = .idle) (err : s.err = false)
      (word : decode w = .ok (.tx mm)) : EngineMove s { s.startOfTx w mm with timer := Config.txStartLatency }
  /-- EXEC ends with the effect of its word. -/
  | endExec {s u : State} (engine : s.engine = .exec) (effect : runWord s.cmd s = .next u) :
      EngineMove s { u with engine := .idle, timer := 0, draws := u.draws + 1 }
  /-- One cycle of a TX on the wire. -/
  | serial {s : State} (engine : s.engine = .tx) (started : s.timer = 0) : EngineMove s (serialEdge s)
  /-- The rest of a TX, in one step. -/
  | endTx {s : State} (engine : s.engine = .tx) : EngineMove s s.txResult

theorem EngineMove.of_finishExec {s t : State} (he : s.engine = .exec) (h : finishExec s = .next t) :
    EngineMove s t := by
  obtain ⟨u, hu, rfl⟩ := finishExec_eq_next.mp h
  exact .endExec he hu

theorem EngineMove.of_clockEdge {p : Pins} {s t : State} (h : clockEdge p s = .next t) : EngineMove s t := by
  cases hrst : p.rst with
  | true =>
    rw [clockEdge_reset hrst] at h
    cases h
    unfold resetEdge
    split
    · exact .reset s _
    · exact .reset s _
  | false =>
    by_cases hwait : 0 < s.waitLeft
    · rw [clockEdge_waiting hrst hwait] at h
      cases h
      exact .countDown hwait
    unfold State.waitLeft at hwait
    cases he : s.engine with
    | init =>
      rw [clockEdge_init hrst he, if_pos (by simpa [he] using hwait)] at h
      cases h
      exact .endInit he
    | idle =>
      rw [clockEdge_idle hrst he] at h
      cases h
      split
      · obtain ⟨mm, herr, hw, haccept⟩ | ⟨hw, haccept⟩ := acceptEdge_cases p.cmdData s <;> rw [haccept]
        · exact .acceptTx he herr hw
        · exact .acceptExec he hw
      · exact .stay he
    | exec =>
      rw [clockEdge_exec hrst he, if_pos (by simp only [he] at hwait; omega)] at h
      exact .of_finishExec he h
    | tx =>
      have hstarted : s.timer = 0 := by simpa [he] using hwait
      rw [clockEdge_tx hrst he, if_pos hstarted] at h
      cases h
      exact .serial he hstarted

theorem EngineMove.of_runToIdle {s t : State} (h : runToIdle s = .next t) : EngineMove s t := by
  cases he : s.engine with
  | init => rw [runToIdle, he] at h; cases h; exact .endInit he
  | idle => rw [runToIdle, he] at h; cases h; exact .stay he
  | exec => rw [runToIdle, he] at h; exact .of_finishExec he h
  | tx => rw [runToIdle_tx he] at h; cases h; exact .endTx he

/-- A step is a move of the Engine, or the whole of the word offered to an IDLE Engine; either way it may take an action
off the host's list (log 1). -/
theorem step_moves {s t : State} (h : step s = .next t) : ∃ rest, EngineMove { s with inputs := rest } t
    ∨ ∃ w, s.inputs = .command w :: rest ∧ s.engine = .idle ∧ runWord w { s with inputs := rest } = .next t := by
  obtain ⟨p, rest, -, hedge⟩ | hwait | ⟨w, rest, hin, he, hrun⟩ | ⟨w, rest, -, -, rfl⟩ := step_cases h
  · exact ⟨rest, .inl (.of_clockEdge hedge)⟩
  · exact ⟨s.inputs, .inl (.of_runToIdle hwait)⟩
  · exact ⟨rest, .inr ⟨w, hin, he, hrun⟩⟩
  · refine ⟨rest, .inl ?_⟩
    unfold cutWord
    split
    · exact .reset _ _
    · exact .reset _ _

/-- With `rst` = 1 or `cmd_ready` = 0 an edge reads nothing of the command port (10_state.md R33). -/
theorem clockEdge_congr_of_notReady {p q : Pins} {s : State} (h : p.rst = true ∨ s.cmdReady = false)
    (hq : q.rst = p.rst) : clockEdge q s = clockEdge p s := by
  cases hrst : p.rst with
  | true => rw [clockEdge_reset hrst, clockEdge_reset (hq.trans hrst)]
  | false =>
    have hne : s.engine ≠ .idle := by simpa [hrst, State.cmdReady] using h
    have hqrst := hq.trans hrst
    cases he : s.engine with
    | init => rw [clockEdge_init hrst he, clockEdge_init hqrst he]
    | idle => exact absurd he hne
    | exec => rw [clockEdge_exec hrst he, clockEdge_exec hqrst he]
    | tx => rw [clockEdge_tx hrst he, clockEdge_tx hqrst he]

/-! ### What moves write -/

/-- ERR, ERR_CODE and RDATA stay and the trace only grows. -/
structure KeepsRegisters (s t : State) : Prop where
  err : t.err = s.err
  errCode : t.errCode = s.errCode
  rdata : t.rdata = s.rdata
  wire : s.wire <+: t.wire

/-- A move that does not end in INIT writes ERR, ERR_CODE and RDATA only as the word in EXEC does. -/
theorem EngineMove.writes {s t : State} (h : EngineMove s t) (hinit : t.engine ≠ .init) :
    KeepsRegisters s t ∨ s.engine = .exec ∧ ∃ u, runWord s.cmd s = .next u ∧ KeepsRegisters u t := by
  cases h with
  | reset => exact absurd rfl hinit
  | endExec he hu => exact .inr ⟨he, _, hu, rfl, rfl, rfl, List.prefix_rfl⟩
  | serial he hstarted =>
    obtain ⟨q, more, d, e, hserial, -⟩ := serialEdge_leaves he
    rw [hserial]
    exact .inl ⟨rfl, rfl, rfl, List.prefix_append _ _⟩
  | endTx he => exact .inl ⟨rfl, rfl, rfl, List.prefix_append _ _⟩
  | stay | countDown | endInit | acceptExec | acceptTx => exact .inl ⟨rfl, rfl, rfl, List.prefix_rfl⟩

/-- A step that does not end in INIT writes ERR, ERR_CODE and RDATA only as a word does, the one offered or the one in
EXEC. -/
theorem step_writes {s t : State} (h : step s = .next t) (hinit : t.engine ≠ .init) :
    KeepsRegisters s t
    ∨ ∃ w rest u, ((∃ rest, s.inputs = .command w :: rest) ∨ s.engine = .exec ∧ s.cmd = w)
        ∧ runWord w { s with inputs := rest } = .next u ∧ KeepsRegisters u t := by
  obtain ⟨rest, hmove | ⟨w, hin, -, hrun⟩⟩ := step_moves h
  · obtain ⟨herr, hcode, hrdata, hwire⟩ | ⟨he, u, hu, hkept⟩ := hmove.writes hinit
    · exact .inl ⟨herr, hcode, hrdata, hwire⟩
    · exact .inr ⟨s.cmd, rest, u, .inr ⟨he, rfl⟩, hu, hkept⟩
  · exact .inr ⟨w, rest, t, .inl ⟨rest, hin⟩, hrun, rfl, rfl, rfl, List.prefix_rfl⟩

/-! ### STATUS and the ports -/

section
variable (busy err txact : Bool) (code : BitVec 4)

@[simp] theorem statusWord_busy : (statusWord busy err txact code)[0] = busy := by simp [statusWord]

@[simp] theorem statusWord_err : (statusWord busy err txact code)[1] = err := by simp [statusWord]

@[simp] theorem statusWord_txact : (statusWord busy err txact code)[2] = txact := by simp [statusWord]

@[simp] theorem statusWord_bit3 : (statusWord busy err txact code)[3] = false := by simp [statusWord]

@[simp] theorem statusWord_errCode : (statusWord busy err txact code).extractLsb' 4 4 = code := by
  ext j hj
  interval_cases j <;> simp [statusWord]

@[simp] theorem statusWord_high : (statusWord busy err txact code).extractLsb' 8 8 = 0 := by
  ext j hj
  interval_cases j <;> simp [statusWord]

end

/-- The `status` port shows ERR = 1 with the code. -/
def State.PortShows (s : State) (code : BitVec 4) : Prop :=
  s.statusPort.getLsbD 1 = true ∧ s.statusPort.extractLsb' 4 4 = code

theorem pending_of_faulted {s : State} (h : s.err = true) : s.pending = s := by
  by_cases he : s.engine = .exec
  · exact pending_of_exec he (runWord_of_faulted _ h)
  · exact pending_of_not_exec he

/-- When the `status` port shows an error: it is in the registers, or it is that of the word in EXEC, from the free cycle on
(70_reset_and_hazards.md R236; log 7). -/
theorem portShows_iff {s : State} {code : BitVec 4} : s.PortShows code ↔
    s.err = true ∧ s.errCode = code
    ∨ s.err = false ∧ s.engine = .exec ∧ s.timer ≤ Config.freeStatusLead s.draws
        ∧ ∃ e, decodeChecked s.cmd = .error e ∧ errorBits e = code := by
  unfold State.PortShows
  cases herr : s.err with
  | true =>
    obtain ⟨-, hport⟩ | ⟨-, hport⟩ := statusPort_cases s <;> simp [hport, pending_of_faulted, herr]
  | false =>
    by_cases he : s.engine = .exec
    · obtain ⟨u, hu, -⟩ := runWord_next s.cmd s
      obtain ⟨hlead, hport⟩ | ⟨hlead, hport⟩ := statusPort_cases s
      · rw [hport, pending_of_exec he hu]
        obtain ⟨e, hw, rfl⟩ | ⟨⟨i, hw⟩, huerr, -⟩ := runWord_error herr hu
        · simp [he, hlead, hw]
        · simp [hw, huerr, herr]
      · simp [hport, herr, Nat.not_le.mpr hlead]
    · simp [statusPort_of_not_exec he, State.status, herr, he]

/-- The waits of EXEC and its end keep the error that the port shows of the word in EXEC. -/
theorem EngineMove.portShows {s t : State} (h : EngineMove s t) (hinit : t.engine ≠ .init) (herr : s.err = false)
    (he : s.engine = .exec) (hlead : s.timer ≤ Config.freeStatusLead s.draws) {e : ErrorCode}
    (hw : decodeChecked s.cmd = .error e) : t.PortShows (errorBits e) := by
  rw [portShows_iff]
  cases h with
  | reset => exact absurd rfl hinit
  | countDown hwait => exact .inr ⟨herr, he, (Nat.sub_le _ _).trans hlead, e, hw, rfl⟩
  | endExec _ hu =>
    obtain ⟨e', hw', rfl⟩ | ⟨⟨i, hw'⟩, -⟩ := runWord_error herr hu
    · cases hw.symm.trans hw'
      exact .inl ⟨rfl, rfl⟩
    · cases hw.symm.trans hw'
  | stay hother | endInit hother | acceptExec hother | acceptTx hother | serial hother | endTx hother =>
    cases he.symm.trans hother

/-! ### The wait for `cmd_ready` as clock edges -/

/-- What a legal state in TX has on the line once its wait is over. -/
theorem Legal.sending {s : State} (h : Legal s) (he : s.engine = .tx) : Sending { s with timer := 0 } :=
  ⟨he, rfl, h.baud, (h.tx he).position, (h.tx he).shifting⟩

/-- The end of EXEC does not depend on the wait. -/
theorem finishExec_timer {s : State} (he : s.engine = .exec) (n : Nat) :
    finishExec { s with timer := n } = finishExec s := by
  obtain ⟨u, hu, -⟩ := runWord_next s.cmd s
  have hs : s.withEngine .exec s.cmd s.timer = s := by rw [← he]; rfl
  have hn : s.withEngine .exec s.cmd n = { s with timer := n } := by rw [← he]; rfl
  rw [← hn, finishExec_withEngine n hu, ← finishExec_withEngine s.timer hu, hs]

/-- The wait, then the rest, of edges without a reset. -/
theorem clockRun_after_wait {ps : List Pins} {s : State} (hps : NoReset ps) (h : s.waitLeft ≤ ps.length) :
    ∃ rs, NoReset rs ∧ rs.length = ps.length - s.waitLeft
      ∧ clockRun ps s = clockRun rs { s with timer := s.timer - s.waitLeft } := by
  obtain ⟨qs, rs, rfl, hqs, hrs, hqlen, hrlen⟩ := hps.cut h
  exact ⟨rs, hrs, hrlen, by rw [clockRun_append, clockRun_waiting hqs hqlen.le, andThen_next, hqlen]⟩

/-- A wait ends ready, whatever was in progress. -/
theorem runToIdle_ready (s : State) : ∃ t, runToIdle s = .next t ∧ t.cmdReady = true := by
  unfold runToIdle
  split
  · exact ⟨_, rfl, rfl⟩
  · next he => exact ⟨s, rfl, by simp [State.cmdReady, he]⟩
  · obtain ⟨t, ht, he⟩ := finishExec_next s
    exact ⟨t, ht, by simp [State.cmdReady, he]⟩
  · exact ⟨_, rfl, rfl⟩

/-- From INIT the edges of the wait and one more leave what the waiting step leaves. -/
theorem clockRun_init_to_idle {ps : List Pins} {s : State} (he : s.engine = .init) (hps : NoReset ps)
    (hlen : ps.length = s.timer + 1) : clockRun ps s = runToIdle s := by
  have hwait : s.waitLeft = s.timer := by rw [State.waitLeft, he]
  obtain ⟨rs, hrs, hrlen, hrun⟩ := clockRun_after_wait (s := s) hps (by omega)
  obtain ⟨p, rfl⟩ := List.length_eq_one_iff.mp (show rs.length = 1 by omega)
  have hedge := clockEdge_init (s := { s with timer := s.timer - s.waitLeft }) hrs.head he
  rw [if_pos (by simp only [hwait, Nat.sub_self])] at hedge
  rw [hrun, clockRun_cons, hedge, runToIdle, he]
  rfl

/-- From EXEC as many edges as cycles are left leave what the waiting step leaves. -/
theorem clockRun_exec_to_idle {ps : List Pins} {s : State} (he : s.engine = .exec) (hpos : 1 ≤ s.timer)
    (hps : NoReset ps) (hlen : ps.length = s.timer) : clockRun ps s = runToIdle s := by
  have hwait : s.waitLeft = s.timer - 1 := by rw [State.waitLeft, he]
  obtain ⟨rs, hrs, hrlen, hrun⟩ := clockRun_after_wait (s := s) hps (by omega)
  obtain ⟨p, rfl⟩ := List.length_eq_one_iff.mp (show rs.length = 1 by omega)
  obtain ⟨t, ht, -⟩ := finishExec_next s
  have hedge := clockEdge_exec (s := { s with timer := s.timer - s.waitLeft }) hrs.head he
  rw [if_pos (by simp only; omega), finishExec_timer he, ht] at hedge
  rw [hrun, clockRun_cons, hedge, runToIdle, he]
  exact ht.symm

/-- From a legal TX the edges of the wait and the cycles the line still needs leave what the waiting step leaves. -/
theorem clockRun_tx_to_idle {ps : List Pins} {s : State} (h : Legal s) (he : s.engine = .tx) (hps : NoReset ps)
    (hlen : ps.length = s.timer + (1485 * Config.bitPeriod - s.cyclesSent)) : clockRun ps s = runToIdle s := by
  have hwait : s.waitLeft = s.timer := by rw [State.waitLeft, he]
  have hsending := h.sending he
  have hlt : s.cyclesSent < 1485 * Config.bitPeriod := hsending.cyclesSent_lt
  obtain ⟨rs, hrs, hrlen, hrun⟩ := clockRun_after_wait (s := s) hps (by omega)
  have hcycles : s.cyclesSent + rs.length = 1485 * Config.bitPeriod := by omega
  rw [hrun, hwait, Nat.sub_self, clockRun_sending_to_end hsending hrs hcycles, runToIdle_tx he]
  rfl

/-- How many edges without a reset bring `cmd_ready` back (10_state.md R30; 42_transmit.md R163). -/
def State.edgesToIdle (s : State) : Nat :=
  match s.engine with
  | .init => s.timer + 1
  | .idle => 0
  | .exec => s.timer
  | .tx => s.timer + (1485 * Config.bitPeriod - s.cyclesSent)

/-- From a legal state the edges that bring `cmd_ready` back leave exactly what the waiting step leaves (log 21). -/
theorem clockRun_eq_runToIdle {ps : List Pins} {s : State} (h : Legal s) (hps : NoReset ps)
    (hlen : ps.length = s.edgesToIdle) : clockRun ps s = runToIdle s := by
  unfold State.edgesToIdle at hlen
  split at hlen
  · next he => exact clockRun_init_to_idle he hps hlen
  · next he =>
    rw [List.length_eq_zero_iff.mp hlen, runToIdle, he]
    rfl
  · next he =>
    have htimer := h.timer
    simp only [TimerLegal, he] at htimer
    exact clockRun_exec_to_idle he htimer.1 hps hlen
  · next he => exact clockRun_tx_to_idle h he hps hlen

/-! ### The legal states -/

theorem Legal.withInputs {s : State} (h : Legal s) (rest : List HostAction) : Legal { s with inputs := rest } where
  status := h.status
  timer := h.timer
  exec := h.exec
  baud := h.baud
  tx htx := by
    obtain ⟨hrunning, hposition, hshifting, hwaiting, htraced⟩ := h.tx htx
    exact ⟨hrunning, hposition, hshifting, hwaiting, htraced⟩

/-- In IDLE no wait is left and no command is in progress. -/
theorem Legal.of_idle {s : State} (he : s.engine = .idle) (hstatus : StatusLegal s) (htimer : s.timer = 0)
    (hbaud : s.seq.baudCnt < Config.bitPeriod) : Legal s where
  status := hstatus
  timer := by simpa [TimerLegal, he] using htimer
  exec hexec := by cases he.symm.trans hexec
  baud := hbaud
  tx htx := by cases he.symm.trans htx

/-- Every reset leaves a legal state (70_reset_and_hazards.md R230). -/
theorem Legal.resetWith (sent : List WireFrame) (s : State) : Legal (resetWith sent s) where
  status := ⟨Nat.zero_le _, by simp⟩
  timer := Nat.le_refl _
  exec h := by cases h
  baud := freeSequencer_baudCnt_lt _
  tx h := by cases h

/-- One cycle less of a wait. -/
theorem Legal.countDown {s : State} (h : Legal s) (hwait : 0 < s.waitLeft) :
    Legal { s with timer := s.timer - 1 } where
  status := h.status
  timer := by
    have htimer := h.timer
    unfold TimerLegal at htimer ⊢
    unfold State.waitLeft at hwait
    cases he : s.engine <;> simp only [he] at htimer hwait ⊢ <;> omega
  exec := h.exec
  baud := h.baud
  tx he := by
    obtain ⟨hrunning, hposition, hshifting, hwaiting, htraced⟩ := h.tx he
    exact ⟨hrunning, hposition, hshifting, fun hne => hwaiting fun hzero => hne (by simp [hzero]), htraced⟩

/-- A word accepted for EXEC waits its EXEC_LATENCY. -/
theorem Legal.acceptExec {s : State} {w : Word} (h : Legal s) (hw : entersTx w s = none) :
    Legal (s.withEngine .exec w (Config.execLatency s.err w)) where
  status := h.status
  timer := ⟨Nat.succ_pos _, Nat.le_refl _⟩
  exec _ := hw
  baud := h.baud
  tx htx := by cases htx

/-- The frames before the position are the newest of the trace exactly when the whole sequence is at the end of the trace
that the TX will leave. -/
theorem traced_iff_txResult (s : State) :
    (txBytes s.pb s.txMode).take (frameIndex s.seq.slot s.seq.item) <:+ s.wire
      ↔ txBytes s.pb s.txMode <:+ s.txResult.wire := by
  have hresult : s.txResult.wire = s.wire ++ s.txRest := rfl
  refine exists_congr fun older => ?_
  calc older ++ (txBytes s.pb s.txMode).take (frameIndex s.seq.slot s.seq.item) = s.wire
      ↔ older ++ (txBytes s.pb s.txMode).take (frameIndex s.seq.slot s.seq.item) ++ s.txRest
          = s.wire ++ s.txRest := (List.append_left_inj _).symm
    _ ↔ older ++ txBytes s.pb s.txMode = s.txResult.wire := by
        rw [hresult, List.append_assoc, State.txRest, List.take_append_drop]

/-- An accepted TX is at its first frame and waits for its first start bit. -/
theorem Legal.acceptTx {s : State} {w : Word} {mm : MappingMode} (h : Legal s) (herr : s.err = false)
    (hw : decode w = .ok (.tx mm)) : Legal { s.startOfTx w mm with timer := Config.txStartLatency } := by
  have hsending := startOfTx_sending s hw
  have hmode := startOfTx_txMode s hw
  exact {
    status := h.status
    timer := Nat.le_refl _
    exec := fun hexec => by cases hexec
    baud := hsending.baud
    tx := fun _ => {
      running := entersTx_eq_some.mpr ⟨herr, hw.trans (by rw [← hmode]; rfl)⟩
      position := hsending.position
      shifting := hsending.shifting
      waiting := fun _ => by
        show loadFrame s mm 0 0 = loadFrame s (s.startOfTx w mm).txMode 0 0
        rw [hmode]
      traced := List.nil_suffix } }

/-- A TX on the wire stays legal as long as it has the same result ahead. -/
theorem Legal.of_txResult {s t : State} (h : Legal s) (he : s.engine = .tx) (ht : Sending t)
    (hresult : t.txResult = s.txResult) : Legal t := by
  have hpb : t.pb = s.pb := congrArg (·.pb) hresult
  have hcmd : t.cmd = s.cmd := congrArg (·.cmd) hresult
  have herr : t.err = s.err := congrArg (·.err) hresult
  have hcode : t.errCode = s.errCode := congrArg (·.errCode) hresult
  have hmode : t.txMode = s.txMode := by rw [State.txMode, hcmd, State.txMode]
  obtain ⟨hrunning, -, -, -, htraced⟩ := h.tx he
  refine ⟨?_, ?_, ?_, ht.baud, fun _ => ⟨?_, ht.position, ht.shifting, fun hne => absurd ht.started hne, ?_⟩⟩
  · unfold StatusLegal
    rw [herr, hcode]
    exact h.status
  · simp [TimerLegal, ht.engine, ht.started]
  · intro hexec
    cases ht.engine.symm.trans hexec
  · rw [entersTx_eq_some, herr, hcmd, hmode]
    exact entersTx_eq_some.mp hrunning
  · rw [traced_iff_txResult, hresult, hpb, hmode]
    exact (traced_iff_txResult s).mp htraced

/-- The end of a TX. -/
theorem Legal.txResult {s : State} (h : Legal s) : Legal s.txResult :=
  .of_idle rfl h.status rfl (freeSequencer_baudCnt_lt _)

/-- Every move of the Engine keeps the legal states legal. -/
theorem Legal.move {s t : State} (h : Legal s) (hmove : EngineMove s t) : Legal t := by
  cases hmove with
  | stay => exact h
  | reset sent => exact .resetWith sent s
  | countDown hwait => exact h.countDown hwait
  | endInit => exact .of_idle rfl h.status rfl h.baud
  | acceptExec he hw => exact h.acceptExec hw
  | acceptTx he herr hw => exact h.acceptTx herr hw
  | endExec he hu =>
    have hstatus := h.status.runWord hu
    have hbaud := runWord_baudCnt_lt h.baud hu
    exact .of_idle rfl hstatus rfl hbaud
  | serial he hstarted =>
    have hsending : Sending s := ⟨he, hstarted, h.baud, (h.tx he).position, (h.tx he).shifting⟩
    obtain ⟨hsending', -, hresult⟩ | ⟨-, hend⟩ := serialEdge_cases hsending
    · exact h.of_txResult he hsending' hresult
    · rw [hend]
      exact h.txResult
  | endTx he => exact h.txResult

/-- A whole command keeps the legal states legal. -/
theorem Legal.runWord {w : Word} {s t : State} (h : Legal s) (he : s.engine = .idle) (hrun : runWord w s = .next t) :
    Legal t := by
  obtain ⟨hengine, htimer⟩ := runWord_engine_timer hrun
  have hzero : s.timer = 0 := by simpa [TimerLegal, he] using h.timer
  exact .of_idle (hengine.trans he) (h.status.runWord hrun) (htimer.trans hzero) (runWord_baudCnt_lt h.baud hrun)

/-! ### The statements -/

/-- Settles O57: a step is a move of the Engine or a whole command, and both keep the legal states. -/
theorem legalKeptByEveryStep : Obligations.LegalKeptByEveryStep := by
  intro s t hs h
  obtain ⟨rest, hmove | ⟨w, -, he, hrun⟩⟩ := step_moves h
  · exact (hs.withInputs rest).move hmove
  · exact (hs.withInputs rest).runWord he hrun

/-- Settles O12: only a word writes the error registers, and it is discarded while ERR = 1. -/
theorem errorIsSticky : Obligations.ErrorIsSticky := by
  intro s t h herr hinit
  obtain hkept | ⟨w, rest, u, -, hrun, hkept⟩ := step_writes h hinit
  · exact ⟨hkept.err.trans herr, hkept.errCode⟩
  · rw [runWord_of_faulted w (s := { s with inputs := rest }) herr] at hrun
    cases hrun
    exact ⟨hkept.err.trans herr, hkept.errCode⟩

/-- Settles O13: both a word and every other move only add to the trace. -/
theorem wireTraceOnlyGrows : Obligations.WireTraceOnlyGrows := by
  intro s t h hinit
  obtain hkept | ⟨w, rest, u, -, hrun, hkept⟩ := step_writes h hinit
  · exact hkept.wire
  · exact (runWord_wire_prefix hrun).trans hkept.wire

/-- Settles O14: outside INIT only a word writes RDATA, and among the words only RDPIX and RDCH. -/
theorem onlyReadsAndResetChangeRdata : Obligations.OnlyReadsAndResetChangeRdata := by
  intro s t h hne
  by_cases hinit : t.engine = .init
  · exact .inl hinit
  obtain hkept | ⟨w, rest, u, hword, hrun, hkept⟩ := step_writes h hinit
  · exact absurd hkept.rdata hne
  · obtain ⟨herr, hread⟩ := runWord_rdata_ne hrun (hkept.rdata ▸ hne)
    exact .inr ⟨herr, w, hword, hread⟩

/-- Settles O47: the edges of the wait and of what is in progress leave the very state of `runToIdle`. -/
theorem waitingIsClockEdges : Obligations.WaitingIsClockEdges := by
  intro s hs
  refine ⟨s.edgesToIdle, fun ps hps hlen => ?_⟩
  obtain ⟨u, hu, hready⟩ := runToIdle_ready s
  exact ⟨u, u, (clockRun_eq_runToIdle hs hps hlen).trans hu, hu, hready, rfl⟩

/-- Settles O48: the edge of each of the Engine's states. -/
theorem engineTransitions : Obligations.EngineTransitions := by
  intro p s t hrst h hne
  cases he : s.engine with
  | init =>
    rw [clockEdge_init hrst he] at h
    cases h
    split at hne
    · rw [if_pos ‹_›]
      exact .inl ⟨rfl, rfl, pixel_finishInit s⟩
    · exact absurd rfl hne
  | idle =>
    rw [clockEdge_idle hrst he] at h
    cases h
    split at hne
    · next hvalid =>
      rw [if_pos hvalid]
      obtain ⟨mm, herr, hw, haccept⟩ | ⟨hw, haccept⟩ := acceptEdge_cases p.cmdData s <;> rw [haccept]
      · exact .inr (.inl ⟨rfl, rfl, hvalid, herr, mm, hw⟩)
      · exact .inr (.inr (.inl ⟨rfl, rfl, hvalid, entersTx_eq_none.mp hw⟩))
    · exact absurd rfl hne
  | exec =>
    rw [clockEdge_exec hrst he] at h
    split at h
    · obtain ⟨u, -, rfl⟩ := finishExec_eq_next.mp h
      exact .inr (.inr (.inr (.inl ⟨rfl, rfl⟩)))
    · cases h
      exact absurd rfl hne
  | tx =>
    rw [clockEdge_tx hrst he] at h
    cases h
    split at hne
    · rw [if_pos ‹_›]
      obtain ⟨q, more, d, e, hserial, rfl | rfl⟩ := serialEdge_leaves he
      · exact absurd (by rw [hserial, he]) hne
      · exact .inr (.inr (.inr (.inr ⟨rfl, by rw [hserial]⟩)))
    · exact absurd rfl hne

/-- Settles O51: `pending`, which the ports show in EXEC, is what `finishExec` leaves. -/
theorem readPortsSettleWhenReady : Obligations.ReadPortsSettleWhenReady := by
  intro s
  constructor
  · intro hready
    have he : s.engine ≠ .exec := by
      intro he
      simp [State.cmdReady, he] at hready
    exact ⟨by simp [State.rdataPort, pending_of_not_exec he], statusPort_of_not_exec he⟩
  · intro he
    obtain ⟨u, hu, -⟩ := runWord_next s.cmd s
    have hpending := pending_of_exec he hu
    have hbusy : s.busy = true := by simp [State.busy, State.cmdReady, he]
    have htxact : s.txact = false := by simp [State.txact, he]
    refine ⟨_, finishExec_eq_next.mpr ⟨u, hu, rfl⟩, ?_, ?_⟩
    · unfold State.rdataPort
      split
      · exact .inr (by rw [hpending])
      · exact .inl rfl
    · obtain ⟨-, hport⟩ | ⟨-, hport⟩ := statusPort_cases s <;> rw [hport, hbusy, htxact]
      · exact .inr (by rw [hpending])
      · exact .inl rfl

/-- Settles O60: an error in the registers stays there, and one of the word in EXEC stays shown until it is in the
registers. -/
theorem statusPortIsSticky : Obligations.StatusPortIsSticky := by
  intro s t h hinit hshown
  change t.PortShows (s.statusPort.extractLsb' 4 4)
  obtain ⟨herr, hcode⟩ | ⟨herr, he, hlead, e, hw, hcode⟩ := portShows_iff.mp ⟨hshown, rfl⟩ <;> rw [← hcode]
  · exact portShows_iff.mpr (.inl (errorIsSticky s t h herr hinit))
  · obtain ⟨rest, hmove | ⟨w, -, hidle, -⟩⟩ := step_moves h
    · exact hmove.portShows hinit herr he hlead hw
    · cases he.symm.trans hidle

/-- Settles O49: an edge reads `cmd_data` and `cmd_valid` only without reset and in IDLE, `cmd_data` only with
`cmd_valid`. -/
theorem wordIgnoredUnlessAccepted : Obligations.WordIgnoredUnlessAccepted := by
  intro p s
  refine ⟨fun h w => ?_, fun h v => clockEdge_congr_of_notReady h rfl, fun hrst hvalid he => ?_⟩
  · obtain hrst | hvalid | hready := h
    · exact clockEdge_congr_of_notReady (.inl hrst) rfl
    · simp [clockEdge, hvalid]
    · exact clockEdge_congr_of_notReady (.inr hready) rfl
  · simp [clockEdge_idle hrst he, hvalid]

/-- Settles O50: STATUS is `statusWord` of its fields. -/
theorem statusLayout : Obligations.StatusLayout := by
  intro s
  simp [State.status, State.busy, State.txact, beq_eq_decide]

/-- Settles O52: the values of `State.reset`, and the step that ends INIT. -/
theorem resetValues : Obligations.ResetValues := by
  have hstep : step State.reset = .next (finishInit State.reset) := rfl
  exact ⟨rfl, rfl, by decide, rfl, rfl, rfl, rfl, rfl, rfl,
    _, hstep, rfl, rfl, by decide, rfl, rfl, rfl, pixel_finishInit _⟩

/-- Settles O56: every clause of `Legal` at the reset values. -/
theorem legalAtReset : Obligations.LegalAtReset where
  status := ⟨Nat.zero_le _, by simp [State.reset]⟩
  timer := Nat.le_refl _
  exec h := by cases h
  baud := Nat.succ_pos _
  tx h := by cases h

end Sys2Proof.Machine
end

section
/-! PROOFS. The buffer as a memory (20_memory.md): what each well-formed command does to the state when ERR = 0, what a
read answers, which channel a command leaves alone, and what repeating a command does; the statements are settled at the
end. -/

namespace Sys2Proof.Machine

/-! ### Channels of the buffer -/

@[simp] theorem channel_setPixel_same (s : State) (i : Fin 42) (p : Pixel) (c : Channel) :
    (s.setPixel i p).channel i c = channelValue p c := by
  simp [State.channel]

theorem channel_setPixel_other (s : State) {i j : Fin 42} (p : Pixel) (c : Channel) (h : j ≠ i) :
    (s.setPixel i p).channel j c = s.channel j c := by
  simp [State.channel, pixel_setPixel_other s p h]

@[simp] theorem channel_setBuffer (s : State) (f : Fin 42 → Pixel) (i : Fin 42) (c : Channel) :
    (s.setBuffer f).channel i c = channelValue (f i) c := by
  simp [State.channel]

@[simp] theorem channel_finishInit (s : State) (i : Fin 42) (c : Channel) : (finishInit s).channel i c = 0 := by
  cases c <;> simp [State.channel, channelValue, black]

/-- A write of one channel of one pixel leaves every other channel of the buffer alone (20_memory.md R53). -/
theorem channel_setPixel_setChannel_other (s : State) {i j : Fin 42} {c d : Channel} (v : Byte)
    (h : j ≠ i ∨ d ≠ c) : (s.setPixel i (setChannel (s.pixel i) c v)).channel j d = s.channel j d := by
  by_cases hj : j = i
  · subst hj
    rw [channel_setPixel_same, channelValue_setChannel_other _ _ (h.resolve_left (· rfl)), State.channel]
  · exact channel_setPixel_other s _ d hj

/-- A second write of the same pixel hides the first. -/
@[simp] theorem setPixel_setPixel (s : State) (i : Fin 42) (p q : Pixel) :
    (s.setPixel i p).setPixel i q = s.setPixel i q := by
  simp [State.setPixel]

/-! ### Colours in RDATA (10_state.md R25) -/

theorem red_packColour (p : Pixel) : (packColour p).extractLsb' 16 8 = p.r := by
  ext i hi
  interval_cases i <;> simp [packColour]

theorem green_packColour (p : Pixel) : (packColour p).extractLsb' 8 8 = p.g := by
  ext i hi
  interval_cases i <;> simp [packColour]

theorem blue_packColour (p : Pixel) : (packColour p).extractLsb' 0 8 = p.b := by
  ext i hi
  interval_cases i <;> simp [packColour]

/-! ### Well-formed operands -/

theorem indexField_ok {idx : BitVec 7} : decide (idx.toNat < 42) = true ↔ ∃ i : Fin 42, idx.toNat = i.val :=
  decide_eq_true_iff.trans ⟨fun h => ⟨⟨_, h⟩, rfl⟩, fun ⟨i, h⟩ => h ▸ i.isLt⟩

theorem channelField_ok {ch : ChannelField} : (ch != .noChannel) = true ↔ ∃ c, channelOf ch = some c :=
  bne_iff_ne.trans (channelOf_eq_none.not.symm.trans Option.ne_none_iff_exists')

theorem wellFormed_wrpix {idx : BitVec 7} {colour : Pixel} :
    (Instr.wrpix idx colour).wellFormed = true ↔ ∃ i : Fin 42, idx.toNat = i.val := indexField_ok

theorem wellFormed_rdpix {idx : BitVec 7} :
    (Instr.rdpix idx).wellFormed = true ↔ ∃ i : Fin 42, idx.toNat = i.val := indexField_ok

theorem wellFormed_wrch {idx : BitVec 7} {ch : ChannelField} {value : Byte} :
    (Instr.wrch idx ch value).wellFormed = true
      ↔ (∃ c, channelOf ch = some c) ∧ ∃ i : Fin 42, idx.toNat = i.val :=
  (Bool.and_eq_true_iff ..).trans (and_congr channelField_ok indexField_ok)

theorem wellFormed_rdch {idx : BitVec 7} {ch : ChannelField} :
    (Instr.rdch idx ch).wellFormed = true ↔ (∃ c, channelOf ch = some c) ∧ ∃ i : Fin 42, idx.toNat = i.val :=
  (Bool.and_eq_true_iff ..).trans (and_congr channelField_ok indexField_ok)

theorem wellFormed_fade {ch : ChannelField} {amount : BitVec 9} {fm : FadeMode} :
    (Instr.fade ch amount fm).wellFormed = true ↔ ∃ c, channelOf ch = some c :=
  (Bool.and_eq_true_iff ..).trans ((and_iff_left rfl).trans channelField_ok)

/-! ### What a command does -/

/-- Every command is discarded while ERR = 1 (60_exceptions.md R203). -/
theorem exec_of_faulted (i : Instr) {s : State} (h : s.err = true) : exec i s = .next s := by
  cases i <;> exact unlessFaulted_of_faulted h _

/-- A command that fails an operand check raises an error (30_encoding.md R75). -/
theorem exec_of_illFormed {i : Instr} {s : State} (h : s.err = false) (hi : i.wellFormed = false) :
    ∃ e, exec i s = .next (raiseError e s) := by
  have hchecks := exec_checksOperands i h
  cases hchannel : i.channelOk with
  | false => exact ⟨_, hchecks.badChannel hchannel⟩
  | true => exact ⟨_, hchecks.indexRange hchannel (by simpa [Instr.wellFormed, hchannel] using hi)⟩

section
variable {s : State} {idx : BitVec 7} {ch : ChannelField} {i : Fin 42} {c : Channel}

theorem exec_nop (h : s.err = false) : exec .nop s = .next s := unlessFaulted_of_clear h _

theorem exec_fill (colour : Pixel) (h : s.err = false) :
    exec (.fill colour) s = .next (s.setBuffer fun _ => colour) := unlessFaulted_of_clear h _

theorem exec_wrpix (colour : Pixel) (h : s.err = false) (hi : idx.toNat = i.val) :
    exec (.wrpix idx colour) s = .next (s.setPixel i colour) :=
  (unlessFaulted_of_clear h _).trans (withIndex_of_lt hi _ _)

theorem exec_wrch (value : Byte) (h : s.err = false) (hc : channelOf ch = some c) (hi : idx.toNat = i.val) :
    exec (.wrch idx ch value) s = .next (s.setPixel i (setChannel (s.pixel i) c value)) :=
  (unlessFaulted_of_clear h _).trans ((withChannel_of_some hc _ _).trans (withIndex_of_lt hi _ _))

theorem exec_rdpix (h : s.err = false) (hi : idx.toNat = i.val) :
    exec (.rdpix idx) s = .next (s.setRdata (packColour (s.pixel i))) :=
  (unlessFaulted_of_clear h _).trans (withIndex_of_lt hi _ _)

theorem exec_rdch (h : s.err = false) (hc : channelOf ch = some c) (hi : idx.toNat = i.val) :
    exec (.rdch idx ch) s = .next (s.setRdata ((s.channel i c).setWidth 24)) :=
  (unlessFaulted_of_clear h _).trans ((withChannel_of_some hc _ _).trans (withIndex_of_lt hi _ _))

theorem exec_fade (amount : BitVec 9) (fm : FadeMode) (h : s.err = false) (hc : channelOf ch = some c) :
    exec (.fade ch amount fm) s
      = .next (s.setBuffer fun j => setChannel (s.pixel j) c (fade8 (s.channel j c) amount fm)) :=
  (unlessFaulted_of_clear h _).trans (withChannel_of_some hc _ _)

end

/-! ### One channel of the buffer over a run -/

/-- With ERR = 0 the two reads answer what the buffer holds. -/
theorem readsAs_channel (i : Fin 42) (c : Channel) {s : State} (h : s.err = false) :
    ReadsAs i c (s.channel i c) s := by
  refine ⟨fun idx ch hi hc => ⟨_, exec_rdch h hc hi, rfl⟩, fun idx hi => ⟨_, exec_rdpix h hi, ?_⟩⟩
  rw [setRdata_rdata, red_packColour, green_packColour, blue_packColour, State.channel]

/-- A write completes, and the channel holds what it wrote. -/
theorem exec_of_writes {i : Fin 42} {c : Channel} {v : Byte} {write : Instr} {s : State} (h : s.err = false)
    (hw : Writes i c v write) : ∃ t, exec write s = .next t ∧ t.err = false ∧ t.channel i c = v := by
  cases write with
  | wrpix idx colour =>
    obtain ⟨hi, hv⟩ := hw
    exact ⟨_, exec_wrpix colour h hi, h, (channel_setPixel_same ..).trans hv⟩
  | fill colour => exact ⟨_, exec_fill colour h, h, (channel_setBuffer ..).trans hw⟩
  | wrch idx ch value =>
    obtain ⟨hi, hc, rfl⟩ := hw
    exact ⟨_, exec_wrch value h hc hi, h, by simp⟩
  | nop | fade | shift | tx | rdpix | rdch => exact hw.elim

/-- A well-formed command that writes elsewhere or nowhere completes and keeps the channel. -/
theorem exec_of_leavesAlone {i : Fin 42} {c : Channel} {j : Instr} {s : State} (h : s.err = false)
    (hwf : j.wellFormed = true) (hj : LeavesAlone i c j) :
    ∃ t, exec j s = .next t ∧ t.err = false ∧ t.channel i c = s.channel i c := by
  cases j with
  | nop => exact ⟨_, exec_nop h, h, rfl⟩
  | tx mm => exact ⟨_, exec_tx mm h, h, rfl⟩
  | wrpix idx colour =>
    obtain ⟨k, hk⟩ := wellFormed_wrpix.mp hwf
    have hne : i ≠ k := by rintro rfl; exact hj hk
    exact ⟨_, exec_wrpix colour h hk, h, channel_setPixel_other s colour c hne⟩
  | wrch idx ch value =>
    obtain ⟨⟨d, hd⟩, k, hk⟩ := wellFormed_wrch.mp hwf
    have hne : i ≠ k ∨ c ≠ d := hj.imp (by rintro hidx rfl; exact hidx hk) (by rintro hch rfl; exact hch hd)
    exact ⟨_, exec_wrch value h hd hk, h, channel_setPixel_setChannel_other s value hne⟩
  | fade ch amount fm =>
    obtain ⟨d, hd⟩ := wellFormed_fade.mp hwf
    have hne : c ≠ d := by rintro rfl; exact hj hd
    exact ⟨_, exec_fade amount fm h hd, h,
      (channel_setBuffer ..).trans (channelValue_setChannel_other _ _ hne)⟩
  | rdpix idx =>
    obtain ⟨k, hk⟩ := wellFormed_rdpix.mp hwf
    exact ⟨_, exec_rdpix h hk, h, rfl⟩
  | rdch idx ch =>
    obtain ⟨⟨d, hd⟩, k, hk⟩ := wellFormed_rdch.mp hwf
    exact ⟨_, exec_rdch h hd hk, h, rfl⟩
  | fill | shift => exact hj.elim

/-- Any list of such commands completes and keeps the channel. -/
theorem execAll_of_leavesAlone {i : Fin 42} {c : Channel} {others : List Instr}
    (ho : ∀ j ∈ others, j.wellFormed = true ∧ LeavesAlone i c j) {s : State} (h : s.err = false) :
    ∃ t, execAll others s = .next t ∧ t.err = false ∧ t.channel i c = s.channel i c := by
  induction others generalizing s with
  | nil => exact ⟨s, rfl, h, rfl⟩
  | cons j js ih =>
    obtain ⟨⟨hwf, hj⟩, hjs⟩ := List.forall_mem_cons.mp ho
    obtain ⟨u, hu, herr, hchannel⟩ := exec_of_leavesAlone h hwf hj
    obtain ⟨t, ht, hterr, htchannel⟩ := ih hjs herr
    exact ⟨t, by rw [execAll_cons, hu, andThen_next, ht], hterr, htchannel.trans hchannel⟩

/-- After such a list the two reads answer what the channel held before it. -/
theorem readsAs_of_leavesAlone {i : Fin 42} {c : Channel} {others : List Instr}
    (ho : ∀ j ∈ others, j.wellFormed = true ∧ LeavesAlone i c j) {s : State} (h : s.err = false) :
    ∃ t, execAll others s = .next t ∧ ReadsAs i c (s.channel i c) t := by
  obtain ⟨t, ht, herr, hchannel⟩ := execAll_of_leavesAlone ho h
  exact ⟨t, ht, hchannel ▸ readsAs_channel i c herr⟩

/-! ### The same command again -/

/-- A command that is discarded or raises an error is discarded the second time, so only the well-formed command has to
be shown idempotent. -/
theorem exec_again {i : Instr} {s t : State} (h : exec i s = .next t)
    (hrun : i.wellFormed = true →
      ∃ f : State → State, ∀ u, u.err = false → exec i u = .next (f u) ∧ (f u).err = false ∧ f (f u) = f u) :
    exec i t = .next t := by
  cases herr : s.err with
  | true =>
    rw [exec_of_faulted i herr] at h
    cases h
    exact exec_of_faulted i herr
  | false =>
    cases hwf : i.wellFormed with
    | false =>
      obtain ⟨e, he⟩ := exec_of_illFormed herr hwf
      rw [he] at h
      cases h
      exact exec_of_faulted i rfl
    | true =>
      obtain ⟨f, hf⟩ := hrun hwf
      obtain ⟨hs, hclear, hidem⟩ := hf s herr
      rw [hs] at h
      cases h
      rw [(hf _ hclear).1, hidem]

/-- The writes, FILL and the reads (20_memory.md R57). -/
theorem exec_again_of_mem {idx : BitVec 7} {ch : ChannelField} {value : Byte} {colour : Pixel} {i : Instr}
    {s t : State} (hi : i ∈ [Instr.wrpix idx colour, .wrch idx ch value, .fill colour, .rdpix idx, .rdch idx ch])
    (h : exec i s = .next t) : exec i t = .next t := by
  refine exec_again h fun hwf => ?_
  simp only [List.mem_cons, List.not_mem_nil, or_false] at hi
  obtain rfl | rfl | rfl | rfl | rfl := hi
  · obtain ⟨k, hk⟩ := wellFormed_wrpix.mp hwf
    exact ⟨_, fun u hu => ⟨exec_wrpix colour hu hk, hu, setPixel_setPixel ..⟩⟩
  · obtain ⟨⟨c, hc⟩, k, hk⟩ := wellFormed_wrch.mp hwf
    exact ⟨fun u => u.setPixel k (setChannel (u.pixel k) c value),
      fun u hu => ⟨exec_wrch value hu hc hk, hu, by simp⟩⟩
  · exact ⟨_, fun u hu => ⟨exec_fill colour hu, hu, setBuffer_setBuffer ..⟩⟩
  · obtain ⟨k, hk⟩ := wellFormed_rdpix.mp hwf
    exact ⟨fun u => u.setRdata (packColour (u.pixel k)), fun u hu => ⟨exec_rdpix hu hk, hu, rfl⟩⟩
  · obtain ⟨⟨c, hc⟩, k, hk⟩ := wellFormed_rdch.mp hwf
    exact ⟨fun u => u.setRdata ((u.channel k c).setWidth 24), fun u hu => ⟨exec_rdch hu hc hk, hu, rfl⟩⟩

/-- A well-formed read writes RDATA alone (20_memory.md R57). -/
theorem exec_read_of_wellFormed {idx : BitVec 7} {ch : ChannelField} {i : Instr} {s : State}
    (hi : i ∈ [Instr.rdpix idx, .rdch idx ch]) (h : s.err = false) (hwf : i.wellFormed = true) :
    ∃ v, exec i s = .next (s.setRdata v) := by
  simp only [List.mem_cons, List.not_mem_nil, or_false] at hi
  obtain rfl | rfl := hi
  · obtain ⟨k, hk⟩ := wellFormed_rdpix.mp hwf
    exact ⟨_, exec_rdpix h hk⟩
  · obtain ⟨⟨c, hc⟩, k, hk⟩ := wellFormed_rdch.mp hwf
    exact ⟨_, exec_rdch h hc hk⟩

/-- All that a read writes (20_memory.md R57). -/
theorem exec_read_writes {idx : BitVec 7} {ch : ChannelField} {i : Instr} {s t : State}
    (hi : i ∈ [Instr.rdpix idx, .rdch idx ch]) (h : exec i s = .next t) :
    (i.wellFormed = true → t = { s with rdata := t.rdata })
    ∧ (i.wellFormed = false → t = { s with err := t.err, errCode := t.errCode }) := by
  obtain herr | herr := Bool.eq_false_or_eq_true s.err
  · rw [exec_of_faulted i herr] at h
    cases h
    exact ⟨fun _ => rfl, fun _ => rfl⟩
  · refine ⟨fun hwf => ?_, fun hwf => ?_⟩
    · obtain ⟨v, hv⟩ := exec_read_of_wellFormed hi herr hwf
      rw [hv] at h
      cases h
      rfl
    · obtain ⟨e, he⟩ := exec_of_illFormed herr hwf
      rw [he] at h
      cases h
      rfl

/-- A TX appends 135 frames and keeps the buffer (42_transmit.md R158, R159). -/
theorem exec_tx_appends (mm : MappingMode) {s : State} (h : s.err = false) :
    ∃ t, exec (.tx mm) s = .next t ∧ t.err = false ∧ t.pb = s.pb ∧ s.wire <+: t.wire
      ∧ t.wire.length = s.wire.length + 135 :=
  ⟨_, exec_tx mm h, h, rfl, List.prefix_append .., by simp⟩

/-! ### The statements -/

/-- Settles O20: the channel check passes, and the index check fails. -/
theorem indexOutOfRangeRaises : Obligations.IndexOutOfRangeRaises := by
  intro idx ch colour value s herr hidx
  have hraises (i : Instr) (hchannel : i.channelOk = true) (hindex : i.indexOk = false) :
      exec i s = .next { s with err := true, errCode := 2 } :=
    (exec_checksOperands i herr).indexRange hchannel hindex
  have hout : decide (idx.toNat < 42) = false := decide_eq_false (Nat.not_lt.mpr hidx)
  refine ⟨hraises _ rfl hout, hraises _ rfl hout, fun hch => ?_⟩
  have hnamed : (ch != .noChannel) = true := bne_iff_ne.mpr hch
  exact ⟨hraises _ hnamed hout, hraises _ hnamed hout⟩

/-- Settles O22: the write, or the end of INIT, puts the value there, and the list after it keeps it. -/
theorem readReturnsTheLastWrite : Obligations.ReadReturnsTheLastWrite := by
  intro i c others ho
  refine ⟨fun v write s herr hw => ?_, ?_⟩
  · obtain ⟨u, hu, huerr, rfl⟩ := exec_of_writes herr hw
    rw [execAll_cons, hu, andThen_next]
    exact readsAs_of_leavesAlone ho huerr
  · rw [← channel_finishInit State.reset i c]
    exact readsAs_of_leavesAlone ho rfl

/-- Settles O23. A FADE of a black buffer gives red 1, then red 2; a SHIFT moves one lit pixel from index 0 to 1, then
to 2. -/
theorem repeatedCommands : Obligations.RepeatedCommands := by
  refine ⟨fun _ _ _ _ _ => exec_read_writes, fun _ _ _ _ _ _ _ => exec_again_of_mem,
    ⟨finishInit State.reset, _, _, rfl, rfl, by decide⟩,
    ⟨(finishInit State.reset).setPixel 0 ⟨1, 1, 1⟩, _, _, rfl, rfl, by decide⟩, fun mm s herr => ?_⟩
  obtain ⟨t, ht, hterr, htpb, htwire, htlength⟩ := exec_tx_appends mm herr
  obtain ⟨u, hu, -, hupb, huwire, hulength⟩ := exec_tx_appends mm hterr
  exact ⟨t, u, ht, hu, htpb, hupb.trans htpb, htwire, htlength, huwire, hulength⟩

end Sys2Proof.Machine
end

section
/-! PROOFS. The encoding (30_encoding.md). First the fields of a word: what is read back from a placed field, and which bits
a row of the opcode map fixes; then that encoding and decoding are inverse and follow the map, and the errors of an accepted
word in their order. The statements are settled at the end. -/

namespace Sys2Proof.Machine

/-! ### Fields of a word -/

theorem bits_or (v w : Word) (lo n : Nat) : bits (v ||| w) lo n = bits v lo n ||| bits w lo n :=
  BitVec.extractLsb'_or

theorem bits_and (v w : Word) (lo n : Nat) : bits (v &&& w) lo n = bits v lo n &&& bits w lo n :=
  BitVec.extractLsb'_and

theorem getLsbD_bits (w : Word) (lo n k : Nat) : (bits w lo n).getLsbD k = (decide (k < n) && w.getLsbD (lo + k)) :=
  BitVec.getLsbD_extractLsb' ..

theorem getLsbD_place {n : Nat} (lo : Nat) (v : BitVec n) (k : Nat) :
    (place lo v).getLsbD k = (decide (k < 32) && decide (lo ≤ k) && v.getLsbD (k - lo)) := by
  simp only [place, BitVec.getLsbD_shiftLeft, BitVec.getLsbD_setWidth]
  grind

/-- A single bit is a field of width 1. -/
theorem getLsbD_eq_bits (w : Word) (k : Nat) : w.getLsbD k = (bits w k 1).getLsbD 0 := by
  rw [getLsbD_bits]
  simp

/-- A placed field is read back where it was placed. -/
theorem bits_place_same {n lo : Nat} (v : BitVec n) (h : lo + n ≤ 32) : bits (place lo v) lo n = v := by
  ext k hk
  have hword : lo + k < 32 := by omega
  simp [← BitVec.getLsbD_eq_getElem, getLsbD_bits, getLsbD_place, hk, hword]

/-- A placed field leaves 0 in the fields beside it. -/
theorem bits_place_disjoint {m n lo lo' : Nat} (v : BitVec m) (h : lo + m ≤ lo' ∨ lo' + n ≤ lo) :
    bits (place lo v) lo' n = 0 := by
  ext k hk
  have hout (hlo : lo ≤ lo' + k) : v.getLsbD (lo' + k - lo) = false := BitVec.getLsbD_of_ge _ _ (by omega)
  simpa [← BitVec.getLsbD_eq_getElem, getLsbD_bits, getLsbD_place, hk] using fun _ => hout

/-- A field read from a word and put back is the word without its other bits. -/
theorem place_bits (w : Word) (lo n : Nat) : place lo (bits w lo n) = w &&& place lo (BitVec.allOnes n) := by
  ext k hk
  simp only [← BitVec.getLsbD_eq_getElem, getLsbD_place, getLsbD_bits, BitVec.getLsbD_and, BitVec.getLsbD_allOnes]
  grind

/-! ### Selector fields (30_encoding.md R73) -/

@[simp] theorem mappingModeOfBit_mappingModeBits (mm : MappingMode) :
    mappingModeOfBit (mappingModeBits mm)[0] = mm := by
  cases mm <;> rfl

@[simp] theorem directionOfBit_directionBits (dir : Direction) :
    directionOfBit (directionBits dir)[0] = dir := by
  cases dir <;> rfl

@[simp] theorem fadeModeOfBit_fadeModeBits (fm : FadeMode) : fadeModeOfBit (fadeModeBits fm)[0] = fm := by
  cases fm <;> rfl

@[simp] theorem channelFieldOfBits_channelFieldBits (ch : ChannelField) :
    channelFieldOfBits (channelFieldBits ch) = ch := by
  cases ch <;> rfl

theorem mappingModeBits_mappingModeOfBit (b : BitVec 1) :
    mappingModeBits (mappingModeOfBit (b.getLsbD 0)) = b := by
  revert b
  decide

theorem directionBits_directionOfBit (b : BitVec 1) : directionBits (directionOfBit (b.getLsbD 0)) = b := by
  revert b
  decide

theorem fadeModeBits_fadeModeOfBit (b : BitVec 1) : fadeModeBits (fadeModeOfBit (b.getLsbD 0)) = b := by
  revert b
  decide

theorem channelFieldBits_channelFieldOfBits (b : BitVec 2) :
    channelFieldBits (channelFieldOfBits b) = b := by
  revert b
  decide

/-! ### The rows of the opcode map (30_encoding.md R76) -/

theorem matchesRow_iff {op : Opcode} {w : Word} : matchesRow op w = true ↔ w &&& opcodeMask op = opcodeMatch op :=
  beq_iff_eq

/-- A word has its row's bits in a field that the row's mask covers. -/
theorem bits_of_matchesRow {op : Opcode} {w : Word} (h : matchesRow op w = true) {lo n : Nat}
    (hmask : bits (opcodeMask op) lo n = BitVec.allOnes n) : bits w lo n = bits (opcodeMatch op) lo n := by
  rw [← matchesRow_iff.mp h, bits_and, hmask, BitVec.and_allOnes]

/-- A word of a row is the row's fixed bits and the fields that the mask leaves out. -/
theorem eq_of_matchesRow {op : Opcode} {w fields : Word} (h : matchesRow op w = true)
    (hfields : fields = ~~~ opcodeMask op) : opcodeMatch op ||| w &&& fields = w := by
  rw [← matchesRow_iff.mp h, hfields, ← BitVec.and_or_distrib_left, BitVec.or_not_self, BitVec.and_allOnes]

/-- The candidate row depends on bits 31:28 alone, and in Format P on bit 31 alone (30_encoding.md R70). -/
theorem candidate_congr {v w : Word} (h31 : bits w 31 1 = bits v 31 1)
    (h28 : bits v 31 1 = 1 ∨ bits w 28 3 = bits v 28 3) : candidate w = candidate v := by
  unfold candidate
  rw [getLsbD_eq_bits, getLsbD_eq_bits, h31]
  obtain hformat | hopcode := h28
  · simp [hformat]
  · rw [hopcode]

/-- The row a word matches is its candidate row, so the rows are disjoint. -/
theorem candidate_of_matchesRow {op : Opcode} {w : Word} (h : matchesRow op w = true) : candidate w = op := by
  have hmatch : candidate w = candidate (opcodeMatch op) := by
    cases op with
    | wrpix => exact candidate_congr (bits_of_matchesRow h rfl) (.inl rfl)
    | nop | fill | fade | shift | tx | wrch | rdpix | rdch =>
      exact candidate_congr (bits_of_matchesRow h rfl) (.inr (bits_of_matchesRow h rfl))
  rw [hmatch]
  cases op <;> rfl

@[simp] theorem opcodeOf_operandsOf (op : Opcode) (w : Word) : opcodeOf (operandsOf op w) = op := by
  cases op <;> rfl

theorem matchesRow_encode (i : Instr) : matchesRow (opcodeOf i) (encode i) = true := by
  cases i with
  | wrpix idx colour => exact Laws.EncodeMatchesRow.wrpix idx colour
  | nop => exact Laws.EncodeMatchesRow.nop
  | fill colour => exact Laws.EncodeMatchesRow.fill colour
  | fade ch amount fm => exact Laws.EncodeMatchesRow.fade ch amount fm
  | shift dir mm => exact Laws.EncodeMatchesRow.shift dir mm
  | tx mm => exact Laws.EncodeMatchesRow.tx mm
  | wrch idx ch value => exact Laws.EncodeMatchesRow.wrch idx ch value
  | rdpix idx => exact Laws.EncodeMatchesRow.rdpix idx
  | rdch idx ch => exact Laws.EncodeMatchesRow.rdch idx ch

/-! ### Decoding and encoding -/

/-- A word that matches a row decodes to the row's instruction. -/
theorem decode_of_matchesRow {op : Opcode} {w : Word} (h : matchesRow op w = true) :
    decode w = .ok (operandsOf op w) := by
  obtain rfl := candidate_of_matchesRow h
  exact decode_eq_ok.mpr ⟨h, rfl⟩

theorem matchesRow_of_decode {w : Word} {i : Instr} (h : decode w = .ok i) : matchesRow (opcodeOf i) w = true := by
  obtain ⟨hrow, rfl⟩ := decode_eq_ok.mp h
  rwa [opcodeOf_operandsOf]

/-- Only a word of no row fails the first check (30_encoding.md R77). -/
theorem decode_eq_illegalEncoding {w : Word} :
    decode w = .error .illegalEncoding ↔ ∀ op : Opcode, matchesRow op w = false := by
  refine ⟨fun h op => Bool.eq_false_iff.mpr fun hrow => ?_, fun h => ?_⟩
  · rw [decode_of_matchesRow hrow] at h
    cases h
  · rw [decode, h (candidate w)]
    rfl

/-- The operands of an instruction are read back from its word. -/
theorem operandsOf_encode (i : Instr) : operandsOf (opcodeOf i) (encode i) = i := by
  cases i with
  | nop => rfl
  | wrpix | fill | fade | shift | tx | wrch | rdpix | rdch =>
    simp (disch := omega) only [operandsOf, opcodeOf, encode, colourField, placeColour, getLsbD_eq_bits, bits_or,
      bits_place_same, bits_place_disjoint]
    simp [bits]

/-- A word of a row is the encoding of the operands read from it. -/
theorem encode_operandsOf {op : Opcode} {w : Word} (h : matchesRow op w = true) : encode (operandsOf op w) = w := by
  cases op with
  | nop => simpa [opcodeMatch, operandsOf, encode] using eq_of_matchesRow (fields := 0) h rfl
  | wrpix | fill | fade | shift | tx | wrch | rdpix | rdch =>
    simp only [operandsOf, encode, colourField, placeColour, getLsbD_eq_bits, mappingModeBits_mappingModeOfBit,
      directionBits_directionOfBit, fadeModeBits_fadeModeOfBit, channelFieldBits_channelFieldOfBits, place_bits,
      BitVec.or_assoc, ← BitVec.and_or_distrib_left]
    exact eq_of_matchesRow h rfl

/-! ### The assembler (30_encoding.md R79) -/

/-- A keyword table gives only the values in it. -/
theorem mem_of_keyword {α : Type} {table : List (List Char × α)} {cs : List Char} {v : α}
    (h : keyword table cs = some v) : v ∈ table.map Prod.snd := by
  obtain ⟨row, hrow, rfl⟩ := Option.map_eq_some_iff.mp h
  exact List.mem_map_of_mem (List.mem_of_find?_eq_some hrow)

/-- The assembler has no spelling of `CH = 3`. -/
theorem channelWord_ne_noChannel {cs : List Char} {ch : ChannelField} (h : channelWord cs = some ch) :
    (ch != .noChannel) = true := by
  have hmem := mem_of_keyword h
  simp only [List.map_cons, List.map_nil, List.mem_cons, List.not_mem_nil, or_false] at hmem
  obtain rfl | rfl | rfl := hmem <;> rfl

/-- What the assembler spells, if anything, is the encoding of an instruction whose channel field names a channel. -/
def SpellsLegal (r : Option Word) : Prop := ∀ w ∈ r, ∃ i : Instr, i.channelOk = true ∧ encode i = w

theorem SpellsLegal.none : SpellsLegal none := fun _ hw => nomatch hw

theorem SpellsLegal.encode {i : Instr} (h : i.channelOk = true) : SpellsLegal (some (encode i)) := by
  rintro w ⟨⟩
  exact ⟨i, h, rfl⟩

theorem SpellsLegal.bind {α : Type} {operand : Option α} {f : α → Option Word}
    (h : ∀ a ∈ operand, SpellsLegal (f a)) : SpellsLegal (operand >>= f) := by
  intro w hw
  obtain ⟨a, ha, hf⟩ := Option.bind_eq_some_iff.mp hw
  exact h a ha w hf

theorem SpellsLegal.map {α : Type} {operand : Option α} {f : α → Instr}
    (h : ∀ a ∈ operand, (f a).channelOk = true) : SpellsLegal (operand.map fun a => Sys2Proof.encode (f a)) := by
  intro w hw
  obtain ⟨a, ha, rfl⟩ := Option.map_eq_some_iff.mp hw
  exact ⟨f a, h a ha, rfl⟩

/-- Every name but that of the raw-word line spells only encodings; the three with a channel take it from the keyword.
The operands are taken in the order of `asmWord`, FILL first; the raw word and any other operands come last. -/
theorem spellsLegal_asmWord {name : AsmName} (hname : name ≠ .rawWord) (operands : List (List Char)) :
    SpellsLegal (asmWord name operands) := by
  unfold asmWord
  split
  any_goals exact .encode rfl
  · exact .map fun _ _ => rfl
  · exact .bind fun _ hch => .bind fun _ _ => .bind fun _ _ => .encode (channelWord_ne_noChannel hch)
  · exact .bind fun _ _ => .bind fun _ _ => .encode rfl
  · exact .map fun _ _ => rfl
  · exact .bind fun _ _ => .bind fun _ _ => .encode rfl
  · exact .bind fun _ _ => .bind fun _ hch => .bind fun _ _ => .encode (channelWord_ne_noChannel hch)
  · exact .map fun _ _ => rfl
  · exact .bind fun _ _ => .bind fun _ hch => .encode (channelWord_ne_noChannel hch)
  · exact absurd rfl hname
  · exact .none

/-! ### The statements -/

/-- Settles O1: the word of an instruction matches its row, and every operand is read back from it. -/
theorem decodeInvertsEncode : Obligations.DecodeInvertsEncode := fun i => by
  rw [decode_of_matchesRow (matchesRow_encode i), operandsOf_encode]

/-- Settles O2: the operands are the bits that the row's mask leaves out, and the mask fixes the others. -/
theorem encodeInvertsDecode : Obligations.EncodeInvertsDecode := by
  intro w i h
  obtain ⟨hrow, rfl⟩ := decode_eq_ok.mp h
  exact encode_operandsOf hrow

/-- Settles O3: a word can match its candidate row only. -/
theorem decodeFollowsTheOpcodeMap : Obligations.DecodeFollowsTheOpcodeMap := by
  refine ⟨fun w op => ⟨fun h => ⟨_, decode_of_matchesRow h, opcodeOf_operandsOf op w⟩, ?_⟩, fun w a b ha hb => ?_,
    fun w => decode_eq_illegalEncoding⟩
  · rintro ⟨i, h, rfl⟩
    exact matchesRow_of_decode h
  · rw [← candidate_of_matchesRow ha, candidate_of_matchesRow hb]

/-- Settles O5: the row is checked by the decoder, the channel and then the index by the command. -/
theorem wordErrorsInOrder : Obligations.WordErrorsInOrder := by
  refine fun w s => ⟨runWord_of_faulted w, fun herr hnone => ?_, fun op herr hrow => ?_⟩
  · rw [runWord, herr, decode_eq_illegalEncoding.mpr hnone]
    rfl
  · rw [runWord_of_decode herr (decode_of_matchesRow hrow)]
    have hchecks := exec_checksOperands (operandsOf op w) herr
    exact ⟨hchecks.badChannel, hchecks.indexRange, fun _ => rfl⟩

/-- Settles O6: what is spelled is an encoding, which decodes to its instruction. -/
theorem assemblerSpellsOnlyLegalFields : Obligations.AssemblerSpellsOnlyLegalFields := by
  intro name operands w hname h
  obtain ⟨i, hchannel, rfl⟩ := spellsLegal_asmWord hname operands w h
  exact ⟨i, decodeInvertsEncode i, hchannel⟩

/-- Settles O7: the assembler run on the seven lines. -/
theorem pseudoInstructionWords : Obligations.PseudoInstructionWords :=
  ⟨by decide, by decide, by decide, by decide, by decide, by decide, by decide⟩

/-- Settles O21: the channel check comes first, and fails. -/
theorem badChannelRaises : Obligations.BadChannelRaises := by
  intro idx amount fm value s herr
  have hraises (i : Instr) (hchannel : i.channelOk = false) :
      exec i s = .next { s with err := true, errCode := 3 } :=
    (exec_checksOperands i herr).badChannel hchannel
  exact ⟨hraises _ rfl, hraises _ rfl, hraises _ rfl⟩

end Sys2Proof.Machine
end

section
/-! PROOFS. The pixel buffer access commands (40_pixel_buffer.md): each writes the place it names, which the laws of the
buffer read back, and nothing else. The statements are settled at the end. -/

namespace Sys2Proof.Machine

/-! ### A channel in RDATA (10_state.md R25) -/

theorem extractLsb'_low_setWidth (v : Byte) : (v.setWidth 24).extractLsb' 0 8 = v := by
  ext k hk
  simp [hk, show k < 24 by omega]

/-- Zero extension leaves no bit above the channel. -/
theorem extractLsb'_high_setWidth (v : Byte) : (v.setWidth 24).extractLsb' 8 16 = 0 := by
  ext k hk
  simp

/-! ### The statements -/

/-- Settles O15: the effect of NOP is the state itself (40_pixel_buffer.md R100). -/
theorem nopChangesNothing : Obligations.NopChangesNothing := fun _ => exec_nop

/-- Settles O16: the effect is one `setPixel`, which is read back at its index and keeps every other pixel. -/
theorem wrpixWritesOnePixel : Obligations.WrpixWritesOnePixel := fun _ colour s i herr hidx =>
  ⟨s.setPixel i colour, exec_wrpix colour herr hidx, pixel_setPixel_same s i colour,
    fun _ hj c => channel_setPixel_other s colour c hj, rfl⟩

/-- Settles O17: the effect is one `setPixel` of the old pixel with one channel changed. -/
theorem wrchWritesOneChannel : Obligations.WrchWritesOneChannel := by
  intro idx ch value s i c herr hch hidx
  refine ⟨_, exec_wrch value herr hch hidx, ?_, fun j d hne => ?_, rfl⟩
  · rw [channel_setPixel_same, channelValue_setChannel_same]
  · have hother : j ≠ i ∨ d ≠ c := not_and_or.mp fun ⟨hj, hd⟩ => hne (Prod.ext hj hd)
    exact channel_setPixel_setChannel_other s value hother

/-- Settles O18: the effect is one `setRdata` of the packed pixel, whose three bytes are its channels. -/
theorem rdpixReadsOnePixel : Obligations.RdpixReadsOnePixel := fun _ s i herr hidx =>
  ⟨s.setRdata (packColour (s.pixel i)), exec_rdpix herr hidx, red_packColour _, green_packColour _,
    blue_packColour _, rfl⟩

/-- Settles O19: the effect is one `setRdata` of the zero-extended channel. -/
theorem rdchReadsOneChannel : Obligations.RdchReadsOneChannel := fun _ _ s i c herr hch hidx =>
  ⟨s.setRdata ((s.channel i c).setWidth 24), exec_rdch herr hch hidx, extractLsb'_low_setWidth _,
    extractLsb'_high_setWidth _, rfl⟩

end Sys2Proof.Machine
end

section
/-! PROOFS. SHIFT (41_transform.md R122, R124 to R127): a SHIFT moves whole pixels, and each of its indices lies on a ring
that the SHIFT turns by one place. First buffers whose pixels are moved, then the rings, then the statements. -/

namespace Sys2Proof.Machine

/-! ### A buffer whose pixels are moved -/

/-- The state with the old pixel of index `f i` at each index `i`. -/
def State.moved (s : State) (f : Fin 42 → Fin 42) : State := s.setBuffer fun i => s.pixel (f i)

@[simp] theorem moved_err (s : State) (f : Fin 42 → Fin 42) : (s.moved f).err = s.err := rfl

@[simp] theorem pixel_moved (s : State) (f : Fin 42 → Fin 42) (i : Fin 42) :
    (s.moved f).pixel i = s.pixel (f i) := pixel_setBuffer ..

@[simp] theorem moved_id (s : State) : s.moved id = s := setBuffer_pixel s

@[simp] theorem moved_moved (s : State) (f g : Fin 42 → Fin 42) : (s.moved f).moved g = s.moved (f ∘ g) := by
  simp [State.moved]

theorem exec_shift {s : State} (dir : Direction) (mm : MappingMode) (h : s.err = false) :
    exec (.shift dir mm) s = .next (s.moved (shiftSource dir mm)) := unlessFaulted_of_clear h _

theorem repeatExec_shift {s : State} (dir : Direction) (mm : MappingMode) (k : Nat) (h : s.err = false) :
    repeatExec k (.shift dir mm) s = .next (s.moved (shiftSource dir mm)^[k]) := by
  induction k generalizing s with
  | zero => exact congrArg _ (moved_id s).symm
  | succ k ih =>
    rw [repeatExec_succ, exec_shift dir mm h, andThen_next, ih (s := s.moved _) h, moved_moved,
      Function.iterate_succ']

/-! ### The pixels as a list -/

theorem toList_moved (s : State) (f : Fin 42 → Fin 42) : (s.moved f).pb.toList = (indices.map f).map s.pixel := by
  simp [State.moved, bufferOf]

theorem toList_pb (s : State) : s.pb.toList = indices.map s.pixel := by
  simpa using toList_moved s id

theorem mem_indices (i : Fin 42) : i ∈ indices := List.mem_of_getElem? (getElem_indices i)

theorem nodup_indices : indices.Nodup := by decide

theorem mem_take_indices (i : Fin 42) : i ∈ indices.take 21 ↔ i.val < 21 := by
  revert i
  decide

theorem mem_drop_indices (i : Fin 42) : i ∈ indices.drop 21 ↔ 21 ≤ i.val := by
  revert i
  decide

/-- An injective map of a list's members among themselves is a permutation of the list. -/
theorem map_perm_of_mapsTo {α : Type} {f : α → α} {l : List α} (hf : Function.Injective f) (hl : l.Nodup)
    (hmem : ∀ a ∈ l, f a ∈ l) : (l.map f).Perm l := by
  have hsub : l.map f ⊆ l := fun b hb => by
    obtain ⟨a, ha, rfl⟩ := List.mem_map.mp hb
    exact hmem a ha
  exact (List.subperm_of_subset (hl.map hf) hsub).perm_of_length_le (by simp)

/-! ### Rings (41_transform.md R124, R125) -/

/-- A ring of indices: the first, how many, and the way a Positive SHIFT turns it: 1 to higher indices, -1 to lower. -/
structure Ring where
  first : Int
  length : Int
  sense : Int

/-- The index `k` places after `j` on the ring, in its sense. -/
def Ring.after (r : Ring) (k j : Int) : Int := r.first + (j - r.first + k * r.sense) % r.length

theorem Ring.after_after (r : Ring) (k m j : Int) : r.after k (r.after m j) = r.after (m + k) j := by
  simp [Ring.after, add_mul, add_assoc]

theorem Ring.after_zero {r : Ring} {j : Int} (hfirst : r.first ≤ j) (hlast : j < r.first + r.length) :
    r.after 0 j = j := by
  rw [Ring.after, zero_mul, add_zero, Int.emod_eq_of_lt (by omega) (by omega)]
  omega

/-- As many places as the ring has are no move. -/
theorem Ring.after_length_mul (r : Ring) (n j : Int) : r.after (r.length * n) j = r.after 0 j := by
  simp [Ring.after, mul_assoc]

/-- The ring that index `i` lies on: the whole buffer in Full mode, else its arm, arm B turning the other way. -/
def ringOf (mm : MappingMode) (i : Fin 42) : Ring :=
  match mm with
  | .full => ⟨0, 42, 1⟩
  | .mirrored => if i.val < 21 then ⟨0, 21, 1⟩ else ⟨21, 21, -1⟩

theorem ringOf_armA {i : Fin 42} (h : i.val < 21) : ringOf .mirrored i = ⟨0, 21, 1⟩ := if_pos h

theorem ringOf_armB {i : Fin 42} (h : 21 ≤ i.val) : ringOf .mirrored i = ⟨21, 21, -1⟩ := if_neg (Nat.not_lt.mpr h)

theorem after_full (k : Int) (i : Fin 42) : (ringOf .full i).after k i.val = ((i.val : Int) + k) % 42 := by
  simp [ringOf, Ring.after]

theorem after_armA (k : Int) {i : Fin 42} (h : i.val < 21) :
    (ringOf .mirrored i).after k i.val = ((i.val : Int) + k) % 21 := by
  simp [ringOf_armA h, Ring.after]

theorem after_armB (k : Int) {i : Fin 42} (h : 21 ≤ i.val) :
    (ringOf .mirrored i).after k i.val = 21 + ((i.val : Int) - 21 - k) % 21 := by
  simp [ringOf_armB h, Ring.after, sub_eq_add_neg]

theorem after_zero_ringOf (mm : MappingMode) (i : Fin 42) : (ringOf mm i).after 0 i.val = i.val := by
  cases mm with
  | full => exact Ring.after_zero (by simp [ringOf]) (by simp only [ringOf]; omega)
  | mirrored =>
    obtain h | h := Nat.lt_or_ge i.val 21
    · exact Ring.after_zero (by simp [ringOf_armA h]) (by simp [ringOf_armA h, h])
    · exact Ring.after_zero (by simp [ringOf_armB h, h]) (by simp only [ringOf_armB h]; omega)

/-- The place, seen from an index, that its value comes from: a Positive SHIFT brings the value of the place before. -/
def sourceStep : Direction → Int
  | .positive => -1
  | .negative => 1

/-- A SHIFT takes each value from the next place of the index's ring. -/
theorem shiftSource_val (dir : Direction) (mm : MappingMode) (i : Fin 42) :
    ((shiftSource dir mm i).val : Int) = (ringOf mm i).after (sourceStep dir) i.val := by
  cases mm with
  | full =>
    rw [after_full]
    cases dir with
    | positive => simp only [shiftSource, sourceStep, Fin.ofNat]; omega
    | negative => simp only [shiftSource, sourceStep, Fin.ofNat]; omega
  | mirrored =>
    obtain h | h := Nat.lt_or_ge i.val 21
    · rw [after_armA _ h]
      cases dir <;> simp [shiftSource, h, armStep, sourceStep] <;> omega
    · rw [after_armB _ h]
      cases dir <;> simp [shiftSource, Nat.not_lt.mpr h, armStep, sourceStep] <;> omega

/-- In Mirrored mode no value crosses between the arms. -/
theorem shiftSource_mirrored_lt (dir : Direction) (i : Fin 42) :
    (shiftSource dir .mirrored i).val < 21 ↔ i.val < 21 := by
  have hval := shiftSource_val dir .mirrored i
  obtain h | h := Nat.lt_or_ge i.val 21
  · rw [after_armA _ h] at hval
    omega
  · rw [after_armB _ h] at hval
    omega

theorem ringOf_shiftSource (dir : Direction) (mm : MappingMode) (i : Fin 42) :
    ringOf mm (shiftSource dir mm i) = ringOf mm i := by
  cases mm with
  | full => rfl
  | mirrored => simp [ringOf, shiftSource_mirrored_lt]

theorem iterate_shiftSource_val (dir : Direction) (mm : MappingMode) (k : Nat) (i : Fin 42) :
    (((shiftSource dir mm)^[k] i).val : Int) = (ringOf mm i).after (k * sourceStep dir) i.val := by
  induction k generalizing i with
  | zero => simpa using (after_zero_ringOf mm i).symm
  | succ k ih =>
    rw [Function.iterate_succ_apply, ih, ringOf_shiftSource, shiftSource_val, Ring.after_after]
    congr 1
    push_cast
    ring

/-- A whole turn of every ring. -/
theorem iterate_shiftSource_length {dir : Direction} {mm : MappingMode} {n : Nat}
    (hn : ∀ i, (ringOf mm i).length = n) : (shiftSource dir mm)^[n] = id := by
  funext i
  have hval := iterate_shiftSource_val dir mm n i
  rw [← hn i, Ring.after_length_mul, after_zero_ringOf] at hval
  exact Fin.ext (by exact_mod_cast hval)

/-- Opposite steps undo each other. -/
theorem shiftSource_comp_shiftSource {dir back : Direction} (h : sourceStep dir + sourceStep back = 0)
    (mm : MappingMode) : shiftSource back mm ∘ shiftSource dir mm = id := by
  funext i
  have hval : ((shiftSource back mm (shiftSource dir mm i)).val : Int) = i.val := by
    rw [shiftSource_val, ringOf_shiftSource, shiftSource_val, Ring.after_after, h, after_zero_ringOf]
  exact Fin.ext (by exact_mod_cast hval)

theorem shiftSource_bijective (dir : Direction) (mm : MappingMode) : Function.Bijective (shiftSource dir mm) := by
  have hboth {back : Direction} (h : sourceStep dir + sourceStep back = 0) :=
    Function.bijective_iff_has_inverse.mpr ⟨shiftSource back mm,
      congrFun (shiftSource_comp_shiftSource h mm),
      congrFun (shiftSource_comp_shiftSource ((add_comm ..).trans h) mm)⟩
  cases dir with
  | positive => exact hboth (back := .negative) rfl
  | negative => exact hboth (back := .positive) rfl

/-- After `k` SHIFTs an index holds the old value of the place `k` steps on. -/
theorem pixel_moved_iterate (s : State) {dir : Direction} {mm : MappingMode} {k : Nat} {i j : Fin 42}
    (h : (j.val : Int) = (ringOf mm i).after (k * sourceStep dir) i.val) :
    (s.moved (shiftSource dir mm)^[k]).pixel i = s.pixel j := by
  rw [pixel_moved]
  have hval := (iterate_shiftSource_val dir mm k i).trans h.symm
  exact congrArg s.pixel (Fin.ext (by exact_mod_cast hval))

/-! ### The statements -/

/-- What one SHIFT does, in the terms of its rings. -/
theorem exec_shift_turns {s : State} (dir : Direction) (mm : MappingMode) (h : s.err = false) :
    ∃ t, exec (.shift dir mm) s = .next t ∧ t = { s with pb := t.pb }
      ∧ ∀ i j : Fin 42, (j.val : Int) = (ringOf mm i).after (sourceStep dir) i.val → t.pixel i = s.pixel j :=
  ⟨_, exec_shift dir mm h, rfl, fun _ _ hij => pixel_moved_iterate s (k := 1) (by simpa using hij)⟩

/-- Settles O27: in Full mode the ring of every index is the whole buffer. -/
theorem shiftFullRotatesTheRing : Obligations.ShiftFullRotatesTheRing := by
  intro s herr
  obtain ⟨t, ht, hframe, hpos⟩ := exec_shift_turns .positive .full herr
  obtain ⟨u, hu, huframe, hneg⟩ := exec_shift_turns .negative .full herr
  refine ⟨⟨t, ht, hframe, fun i j hij => hpos i j ?_⟩, ⟨u, hu, huframe, fun i j hij => hneg i j ?_⟩⟩
  · rw [hij, after_full, sourceStep, sub_eq_add_neg]
  · rw [hij, after_full, sourceStep]

/-- Settles O28: in Mirrored mode the ring of an index is its arm. -/
theorem shiftMirroredRotatesEachArm : Obligations.ShiftMirroredRotatesEachArm := by
  intro s herr
  obtain ⟨t, ht, hframe, hpos⟩ := exec_shift_turns .positive .mirrored herr
  obtain ⟨u, hu, huframe, hneg⟩ := exec_shift_turns .negative .mirrored herr
  refine ⟨⟨t, ht, hframe, fun i j harm hij => hpos i j ?_, fun i j harm hij => hpos i j ?_⟩,
    ⟨u, hu, huframe, fun i j harm hij => hneg i j ?_, fun i j harm hij => hneg i j ?_⟩⟩
  · rw [hij, after_armA _ harm, sourceStep, sub_eq_add_neg]
  · rw [hij, after_armB _ harm, sourceStep, sub_neg_eq_add]
  · rw [hij, after_armA _ harm, sourceStep]
  · rw [hij, after_armB _ harm, sourceStep]

/-- Settles O29: the source indices are a permutation, of each arm's indices too in Mirrored mode. -/
theorem shiftPreservesTheMultiset : Obligations.ShiftPreservesTheMultiset := by
  refine ⟨shiftSource_bijective, fun dir s herr => ⟨fun mm => ⟨_, exec_shift dir mm herr, ?_⟩,
    _, exec_shift dir .mirrored herr, ?_, ?_⟩⟩
  all_goals simp only [toList_moved, toList_pb s, ← List.map_take, ← List.map_drop]
  all_goals refine List.Perm.map _ (map_perm_of_mapsTo (shiftSource_bijective ..).injective ?_ ?_)
  · exact nodup_indices
  · exact fun i _ => mem_indices _
  · exact nodup_indices.take
  · simpa only [mem_take_indices] using fun i => (shiftSource_mirrored_lt dir i).mpr
  · exact nodup_indices.drop
  · simpa only [mem_drop_indices, ← Nat.not_lt] using fun i => (shiftSource_mirrored_lt dir i).not.mpr

theorem exec_shift_back {s : State} {dir back : Direction} (h : sourceStep dir + sourceStep back = 0)
    (mm : MappingMode) (herr : s.err = false) :
    ∃ t, exec (.shift dir mm) s = .next t ∧ exec (.shift back mm) t = .next s := by
  refine ⟨_, exec_shift dir mm herr, ?_⟩
  rw [exec_shift (s := s.moved _) back mm herr, moved_moved,
    shiftSource_comp_shiftSource ((add_comm ..).trans h) mm, moved_id]

/-- Settles O30: opposite turns cancel, and turns of the rings add up. -/
theorem shiftInverseAndPeriod : Obligations.ShiftInverseAndPeriod := by
  intro s herr
  refine ⟨fun mm => ?_, fun dir => ⟨?_, ?_⟩, fun k => ⟨⟨_, repeatExec_shift _ _ k herr, fun i j hij => ?_⟩,
    ⟨_, repeatExec_shift _ _ k herr, fun i j hij => ?_⟩⟩⟩
  · obtain ⟨t, ht, hback⟩ := exec_shift_back (dir := .positive) (back := .negative) rfl mm herr
    obtain ⟨u, hu, hforth⟩ := exec_shift_back (dir := .negative) (back := .positive) rfl mm herr
    exact ⟨t, u, ht, hback, hu, hforth⟩
  · rw [repeatExec_shift _ _ _ herr, iterate_shiftSource_length fun _ => rfl, moved_id]
  · have hlength (i : Fin 42) : (ringOf .mirrored i).length = (21 : Nat) := by
      simp only [ringOf]
      split <;> rfl
    rw [repeatExec_shift _ _ _ herr, iterate_shiftSource_length hlength, moved_id]
  · exact pixel_moved_iterate s (by rw [after_full, hij, sourceStep, mul_neg_one, sub_eq_add_neg])
  · exact pixel_moved_iterate s (by rw [after_full, hij, sourceStep, mul_one])

end Sys2Proof.Machine
end

section
/-! PROOFS. FILL and FADE (41_transform.md R120, R121, R123, R128, R129): the fade datapath as arithmetic, then one channel
of every pixel mapped through it; and the mirror symmetry that the transforms keep (R130). The statements are settled at
the end. -/

namespace Sys2Proof.Machine

/-! ### The fade datapath (41_transform.md R123) -/

/-- The 10-bit sum of `fade8`. -/
def fadeSum (v : Byte) (amount : BitVec 9) : BitVec 10 := v.setWidth 10 + amount.signExtend 10

theorem fade8_modular (v : Byte) (amount : BitVec 9) :
    fade8 v amount .modular = (fadeSum v amount).setWidth 8 := rfl

theorem fade8_constrained (v : Byte) (amount : BitVec 9) :
    fade8 v amount .constrained
      = if (fadeSum v amount).getLsbD 9 then 0x00 else if (fadeSum v amount).getLsbD 8 then 0xFF
        else (fadeSum v amount).setWidth 8 := rfl

/-- Ten bits hold every sum exactly. -/
theorem toInt_fadeSum (v : Byte) (amount : BitVec 9) : (fadeSum v amount).toInt = v.toNat + amount.toInt := by
  have hv : (v.setWidth 10).toInt = v.toNat := by
    rw [BitVec.toInt_setWidth]
    exact Int.bmod_eq_of_le (by omega) (by omega)
  have ha : (amount.signExtend 10).toInt = amount.toInt := BitVec.toInt_signExtend_of_le (by decide)
  have hlow := amount.le_toInt
  have hhigh := amount.toInt_lt
  rw [fadeSum, BitVec.toInt_add, hv, ha]
  exact Int.bmod_eq_of_le (by omega) (by omega)

theorem getLsbD_eq_decide {w : Nat} (x : BitVec w) (i : Nat) :
    x.getLsbD i = decide (x.toNat / 2 ^ i % 2 = 1) :=
  (BitVec.testBit_toNat x).symm.trans Nat.testBit_eq_decide_div_mod_eq

theorem toNat_fade8_modular (v : Byte) (amount : BitVec 9) :
    ((fade8 v amount .modular).toNat : Int) = ((v.toNat : Int) + amount.toInt) % 256 := by
  rw [fade8_modular, ← toInt_fadeSum, BitVec.toInt_eq_toNat_cond, BitVec.toNat_setWidth]
  split <;> omega

/-- Bit 9 of the sum is its sign, and bit 8 of a sum that is not negative says that it is above 255. -/
theorem toNat_fade8_constrained (v : Byte) (amount : BitVec 9) :
    ((fade8 v amount .constrained).toNat : Int) = max 0 (min 255 ((v.toNat : Int) + amount.toInt)) := by
  have hhigh : (fadeSum v amount).toInt < 511 := by
    have := amount.toInt_lt
    rw [toInt_fadeSum]
    omega
  rw [fade8_constrained, ← toInt_fadeSum]
  generalize fadeSum v amount = sum at hhigh
  have hsum := sum.toInt_eq_toNat_cond
  simp only [getLsbD_eq_decide, decide_eq_true_eq]
  split
  case isTrue hneg => simp; omega
  case isFalse hpos =>
    split
    case isTrue hbig => simp; omega
    case isFalse hbyte => rw [BitVec.toNat_setWidth]; omega

/-- Modular fades add up, modulo 256. -/
theorem toNat_iterate_fade8_modular (k : Nat) (v : Byte) (amount : BitVec 9) :
    (((fade8 · amount .modular)^[k] v).toNat : Int) = ((v.toNat : Int) + k * amount.toInt) % 256 := by
  induction k with
  | zero => simp; omega
  | succ k ih =>
    rw [Function.iterate_succ_apply', toNat_fade8_modular, ih, Int.emod_add_emod]
    congr 1
    push_cast
    ring

/-- A byte that is `v` modulo 256 is `v`. -/
theorem byte_eq_of_emod {v w : Byte} {d : Int} (hw : (w.toNat : Int) = ((v.toNat : Int) + d) % 256)
    (hd : 256 ∣ d) : w = v := by
  apply BitVec.eq_of_toNat_eq
  omega

/-- The number of fades of R128 adds up to a multiple of 256. -/
theorem dvd_div_gcd_mul (a : Int) : 256 ∣ ((256 / Nat.gcd a.natAbs 256 : Nat) : Int) * a := by
  have hdvd : 256 / Nat.gcd a.natAbs 256 * Nat.gcd a.natAbs 256 ∣ 256 / Nat.gcd a.natAbs 256 * a.natAbs :=
    Nat.mul_dvd_mul_left _ (Nat.gcd_dvd_left ..)
  rw [Nat.div_mul_cancel (Nat.gcd_dvd_right ..)] at hdvd
  exact Int.natCast_dvd.mpr (by rwa [Int.natAbs_mul, Int.natAbs_natCast])

theorem iterate_fade8_modular_period (amount : BitVec 9) :
    (fade8 · amount .modular)^[256 / Nat.gcd amount.toInt.natAbs 256] = id :=
  funext fun v => byte_eq_of_emod (toNat_iterate_fade8_modular _ v amount) (dvd_div_gcd_mul _)

theorem toInt_neg_amount {amount : BitVec 9} (h : amount.toInt ≠ -256) : (-amount).toInt = -amount.toInt :=
  BitVec.toInt_neg_of_ne_intMin fun hmin => h (by rw [hmin]; rfl)

theorem fade8_modular_neg {amount : BitVec 9} (h : amount.toInt ≠ -256) :
    (fade8 · (-amount) .modular) ∘ (fade8 · amount .modular) = id := by
  funext v
  have hval := toNat_fade8_modular (fade8 v amount .modular) (-amount)
  rw [toNat_fade8_modular v, toInt_neg_amount h, Int.emod_add_emod, add_assoc] at hval
  exact byte_eq_of_emod hval (by simp)

/-- A value that was clamped does not come back: from 0 the way back is longer than the old value, and from 255 longer
than what lies above it. -/
theorem fade8_constrained_neg_ne {v : Byte} {amount : BitVec 9} (h : amount.toInt ≠ -256)
    (hclamp : (v.toNat : Int) + amount.toInt < 0 ∨ 255 < (v.toNat : Int) + amount.toInt) :
    fade8 (fade8 v amount .constrained) (-amount) .constrained ≠ v := by
  intro heq
  have hval := toNat_fade8_constrained (fade8 v amount .constrained) (-amount)
  rw [heq, toInt_neg_amount h] at hval
  have hfirst := toNat_fade8_constrained v amount
  have hlow := amount.le_toInt
  have hhigh := amount.toInt_lt
  omega

/-! ### One channel of every pixel through a map -/

/-- The state with channel `c` of every pixel mapped through `f`. -/
def State.mapChannel (s : State) (c : Channel) (f : Byte → Byte) : State :=
  s.setBuffer fun i => setChannel (s.pixel i) c (f (s.channel i c))

@[simp] theorem mapChannel_err (s : State) (c : Channel) (f : Byte → Byte) : (s.mapChannel c f).err = s.err := rfl

@[simp] theorem pixel_mapChannel (s : State) (c : Channel) (f : Byte → Byte) (i : Fin 42) :
    (s.mapChannel c f).pixel i = setChannel (s.pixel i) c (f (s.channel i c)) := pixel_setBuffer ..

theorem channel_mapChannel_same (s : State) (c : Channel) (f : Byte → Byte) (i : Fin 42) :
    (s.mapChannel c f).channel i c = f (s.channel i c) :=
  (channel_setBuffer ..).trans (channelValue_setChannel_same ..)

theorem channel_mapChannel_other (s : State) {c d : Channel} (f : Byte → Byte) (i : Fin 42) (h : d ≠ c) :
    (s.mapChannel c f).channel i d = s.channel i d :=
  (channel_setBuffer ..).trans (channelValue_setChannel_other _ _ h)

@[simp] theorem mapChannel_id (s : State) (c : Channel) : s.mapChannel c id = s := by
  simp [State.mapChannel, State.channel]

theorem mapChannel_mapChannel (s : State) (c : Channel) (f g : Byte → Byte) :
    (s.mapChannel c f).mapChannel c g = s.mapChannel c (g ∘ f) := by
  rw [State.mapChannel]
  simp only [pixel_mapChannel, channel_mapChannel_same, setChannel_setChannel]
  rfl

section
variable {s : State} {ch : ChannelField} {c : Channel}

theorem exec_fade_mapChannel (amount : BitVec 9) (fm : FadeMode) (h : s.err = false) (hc : channelOf ch = some c) :
    exec (.fade ch amount fm) s = .next (s.mapChannel c (fade8 · amount fm)) := exec_fade amount fm h hc

theorem repeatExec_fade (amount : BitVec 9) (fm : FadeMode) (k : Nat) (h : s.err = false)
    (hc : channelOf ch = some c) :
    repeatExec k (.fade ch amount fm) s = .next (s.mapChannel c (fade8 · amount fm)^[k]) := by
  induction k generalizing s with
  | zero => exact congrArg _ (mapChannel_id s c).symm
  | succ k ih =>
    rw [repeatExec_succ, exec_fade_mapChannel amount fm h hc, andThen_next, ih (s := s.mapChannel _ _) h,
      mapChannel_mapChannel, Function.iterate_succ]

end

theorem exists_channelOf {ch : ChannelField} (h : ch ≠ .noChannel) : ∃ c, channelOf ch = some c :=
  channelField_ok.mp (bne_iff_ne.mpr h)

/-! ### Mirror symmetry (41_transform.md R130) -/

theorem mirrorIndex_val (i : Fin 42) : (mirrorIndex i).val = 41 - i.val := by
  simp [mirrorIndex]
  omega

theorem mirrorSymmetric_setBuffer (s : State) {f : Fin 42 → Pixel} (h : ∀ i, f i = f (mirrorIndex i)) :
    MirrorSymmetric (s.setBuffer f).pb := fun i =>
  (pixel_setBuffer s f i).trans ((h i).trans (pixel_setBuffer s f (mirrorIndex i)).symm)

theorem mirrorSymmetric_mapChannel {s : State} (h : MirrorSymmetric s.pb) (c : Channel) (f : Byte → Byte) :
    MirrorSymmetric (s.mapChannel c f).pb :=
  mirrorSymmetric_setBuffer s fun i => by
    have hi : s.pixel i = s.pixel (mirrorIndex i) := h i
    simp only [State.channel, hi]

/-- The arms turn opposite ways, so a Mirrored SHIFT takes mirror images from mirror images. -/
theorem shiftSource_mirrorIndex (dir : Direction) (i : Fin 42) :
    shiftSource dir .mirrored (mirrorIndex i) = mirrorIndex (shiftSource dir .mirrored i) := by
  have hmirror := mirrorIndex_val i
  have hval := shiftSource_val dir .mirrored i
  have hmval := shiftSource_val dir .mirrored (mirrorIndex i)
  apply Fin.ext
  rw [mirrorIndex_val]
  obtain h | h := Nat.lt_or_ge i.val 21
  · rw [after_armA _ h] at hval
    rw [after_armB _ (by omega)] at hmval
    omega
  · rw [after_armB _ h] at hval
    rw [after_armA _ (by omega)] at hmval
    omega

theorem mirrorSymmetric_moved {s : State} (h : MirrorSymmetric s.pb) (dir : Direction) :
    MirrorSymmetric (s.moved (shiftSource dir .mirrored)).pb :=
  mirrorSymmetric_setBuffer s fun i => by
    rw [shiftSource_mirrorIndex]
    exact h _

theorem exec_fade_keeps_mirrorSymmetric {ch : ChannelField} {amount : BitVec 9} {fm : FadeMode} {s t : State}
    (herr : s.err = false) (hs : MirrorSymmetric s.pb) (h : exec (.fade ch amount fm) s = .next t) :
    MirrorSymmetric t.pb := by
  by_cases hch : ch = .noChannel
  · subst hch
    obtain ⟨e, he⟩ := exec_of_illFormed (i := .fade .noChannel amount fm) herr rfl
    rw [he] at h
    cases h
    exact hs
  · obtain ⟨c, hc⟩ := exists_channelOf hch
    rw [exec_fade_mapChannel amount fm herr hc] at h
    cases h
    exact mirrorSymmetric_mapChannel hs c _

theorem exec_shift_keeps_mirrorSymmetric {dir : Direction} {s t : State} (herr : s.err = false)
    (hs : MirrorSymmetric s.pb) (h : exec (.shift dir .mirrored) s = .next t) : MirrorSymmetric t.pb := by
  rw [exec_shift dir .mirrored herr] at h
  cases h
  exact mirrorSymmetric_moved hs dir

/-- A black buffer with the two tips, indices 0 and 41, lit. -/
def litTips : State := ((finishInit State.reset).setPixel 0 ⟨1, 1, 1⟩).setPixel 41 ⟨1, 1, 1⟩

/-! ### The statements -/

/-- Settles O24: the effect is one `setBuffer` of the colour. -/
theorem fillSetsEveryPixel : Obligations.FillSetsEveryPixel := fun colour _ herr =>
  ⟨_, exec_fill colour herr, fun _ => pixel_setBuffer .., rfl⟩

/-- Settles O25. -/
theorem fadeDatapathIsExact : Obligations.FadeDatapathIsExact := fun v amount =>
  ⟨toNat_fade8_modular v amount, toNat_fade8_constrained v amount⟩

/-- Settles O26: the effect is one `mapChannel` through `fade8`. -/
theorem fadeChangesOneChannelOfEveryPixel : Obligations.FadeChangesOneChannelOfEveryPixel :=
  fun _ amount fm s c herr hc =>
    ⟨_, exec_fade_mapChannel amount fm herr hc, channel_mapChannel_same s c _,
      fun i _ hd => channel_mapChannel_other s _ i hd, rfl⟩

/-- Settles O31: each law of `fade8` is one of every pixel's channel. -/
theorem fadePeriodAndInverse : Obligations.FadePeriodAndInverse := by
  refine ⟨fun v amount => Nat.le_of_lt_succ (BitVec.isLt _), fun ch amount s herr hch => ?_,
    fun ch amount s herr hch hamount => ?_, fun v amount => fade8_constrained_neg_ne⟩
  · obtain ⟨c, hc⟩ := exists_channelOf hch
    rw [repeatExec_fade amount .modular _ herr hc, iterate_fade8_modular_period, mapChannel_id]
  · obtain ⟨c, hc⟩ := exists_channelOf hch
    refine ⟨_, exec_fade_mapChannel amount .modular herr hc, ?_⟩
    rw [exec_fade_mapChannel (s := s.mapChannel _ _) (-amount) .modular herr hc, mapChannel_mapChannel,
      fade8_modular_neg hamount, mapChannel_id]

/-- Settles O32: RDPIX packs the pixel that FILL set. -/
theorem fillThenReadGivesTheColour : Obligations.FillThenReadGivesTheColour := fun colour idx s herr hidx =>
  ⟨_, _, exec_fill colour herr, exec_rdpix (i := ⟨idx.toNat, hidx⟩) herr rfl, by simp⟩

/-- Settles O33. A Positive Full SHIFT of two lit tips leaves index 0 lit and index 41 black. -/
theorem mirrorSymmetryIsKept : Obligations.MirrorSymmetryIsKept := by
  refine ⟨fun colour s t herr h => ?_, fun i s t hi hs h => ?_,
    ⟨litTips, _, by unfold MirrorSymmetric; decide, rfl, by unfold MirrorSymmetric; decide⟩⟩
  · rw [exec_fill colour herr] at h
    cases h
    exact mirrorSymmetric_setBuffer s fun _ => rfl
  · obtain herr | herr := Bool.eq_false_or_eq_true s.err
    · rw [exec_of_faulted i herr] at h
      cases h
      exact hs
    · obtain ⟨ch, amount, fm, rfl⟩ | ⟨dir, rfl⟩ := hi
      · exact exec_fade_keeps_mirrorSymmetric herr hs h
      · exact exec_shift_keeps_mirrorSymmetric herr hs h

end Sys2Proof.Machine
end


section
/-! PROOFS. The transmitter (42_transmit.md): the slot map and the frames of a slot, which of the frames are addresses, what
a TX sends of a mirrored and of a filled buffer, and the level of the line while a TX runs. The statements are settled at
the end. -/

namespace Sys2Proof.Machine

/-! ### The slot map (42_transmit.md R150 to R156) -/

/-- The positions of the address frames are the starts of the slots (42_transmit.md R159). -/
theorem map_slotStart_slots : slots.map slotStart = [0, 16, 32, 48, 64, 71, 87, 103, 119] := by decide

theorem getElem?_slots (s : Fin 9) : slots[s.val]? = some s := by
  revert s
  decide

/-- The end-cap slot carries two pixels, every other slot five (42_transmit.md R151 to R154). -/
theorem length_slotMap (mm : MappingMode) (s : Fin 9) : (slotMap mm s).length = if s.val = 4 then 2 else 5 := by
  cases mm <;> revert s <;> decide

theorem slotLength_eq (mm : MappingMode) (s : Fin 9) : slotLength mm s = if s.val = 4 then 7 else 16 := by
  rw [slotLength, length_slotMap]
  split <;> rfl

/-- Full mode sends every index once (42_transmit.md R156). -/
theorem nodup_slotMap_full : (slots.flatMap (slotMap .full)).Nodup := by decide

theorem mem_slotMap_full (i : Fin 42) : i ∈ slots.flatMap (slotMap .full) := by
  revert i
  decide

/-- The arm-A index that Mirrored mode sends where Full mode sends `i` (42_transmit.md R154, R168). -/
def foldIndex (i : Fin 42) : Fin 42 := if i.val ≤ 20 then i else mirrorIndex i

theorem foldIndex_val_le (i : Fin 42) : (foldIndex i).val ≤ 20 := by
  have hmirror := mirrorIndex_val i
  unfold foldIndex
  split <;> omega

/-- The Mirrored slot map is the Full one with arm B folded onto arm A. -/
theorem slotMap_mirrored (s : Fin 9) : slotMap .mirrored s = (slotMap .full s).map foldIndex := by
  revert s
  decide

/-- Every slot of Mirrored mode reads arm A only (42_transmit.md R156). -/
theorem val_le_of_mem_slotMap_mirrored {s : Fin 9} {i : Fin 42} (h : i ∈ slotMap .mirrored s) : i.val ≤ 20 := by
  rw [slotMap_mirrored] at h
  obtain ⟨j, -, rfl⟩ := List.mem_map.mp h
  exact foldIndex_val_le j

/-- In Mirrored mode slot 5 + k replays slot k's list (42_transmit.md R154). -/
theorem slotMap_mirrored_replay {j k : Fin 9} (hk : k.val < 4) (hj : j.val = 5 + k.val) :
    slotMap .mirrored j = slotMap .mirrored k := by
  revert j k
  decide

/-! ### The frames of a slot (42_transmit.md R157) -/

@[simp] theorem tail_slotFrames (pb : Vector Pixel 42) (mm : MappingMode) (s : Fin 9) :
    (slotFrames pb mm s).tail = (slotMap mm s).flatMap fun i => pixelFrames pb[i] := rfl

/-- The frames of a pixel stand at three places that its number in the list gives. -/
theorem getElem?_flatMap_pixelFrames (pb : Vector Pixel 42) {l : List (Fin 42)} {k j : Nat} {p : Fin 42}
    (hp : l[k]? = some p) (hj : j < 3) :
    (l.flatMap fun i => pixelFrames pb[i])[3 * k + j]? = (pixelFrames pb[p])[j]? := by
  induction l generalizing k with
  | nil => simp at hp
  | cons q l ih =>
    have hlen : (pixelFrames pb[q]).length = 3 := rfl
    rw [List.flatMap_cons]
    cases k with
    | zero =>
      cases hp
      rw [List.getElem?_append_left (by omega), Nat.mul_zero, Nat.zero_add]
    | succ k =>
      rw [List.getElem?_append_right (by omega), hlen, show 3 * (k + 1) + j - 3 = 3 * k + j by omega]
      exact ih (by simpa using hp)

/-- The frames of a slot stand in `TxBytes` from the slot's start on. -/
theorem getElem?_txBytes_slotStart_add (pb : Vector Pixel 42) {mm : MappingMode} {s : Fin 9} {n : Nat}
    (h : n < slotLength mm s) : (txBytes pb mm)[slotStart s + n]? = (slotFrames pb mm s)[n]? := by
  have hn : n < (slotFrames pb mm s).length := by simpa using h
  have hbound := (slotLength_bounds mm s).2
  have hframe := getElem?_txBytes_frameIndex pb (item := ⟨n, by omega⟩) h
  rwa [frameAt, List.getD_eq_getElem _ _ hn, ← List.getElem?_eq_getElem hn] at hframe

/-- A slot's `k`-th pixel stands in `TxBytes` three frames a pixel after the address frame. -/
theorem getElem?_txBytes_pixel (pb : Vector Pixel 42) {mm : MappingMode} {s : Fin 9} {k j : Nat} {p : Fin 42}
    (hp : (slotMap mm s)[k]? = some p) (hj : j < 3) :
    (txBytes pb mm)[slotStart s + (j + 1) + 3 * k]? = (pixelFrames pb[p])[j]? := by
  have hk : k < (slotMap mm s).length := (List.getElem?_eq_some_iff.mp hp).1
  rw [show slotStart s + (j + 1) + 3 * k = slotStart s + (3 * k + j + 1) by omega,
    getElem?_txBytes_slotStart_add pb (by rw [slotLength]; omega), slotFrames, List.getElem?_cons_succ,
    getElem?_flatMap_pixelFrames pb hp hj]

theorem slotFrames_congr {pb pb' : Vector Pixel 42} {mm : MappingMode} {s : Fin 9}
    (h : ∀ i ∈ slotMap mm s, pb[i] = pb'[i]) : slotFrames pb mm s = slotFrames pb' mm s := by
  rw [slotFrames, slotFrames, List.flatMap_congr fun i hi => by rw [h i hi]]

/-! ### Which frames are addresses (42_transmit.md R159) -/

theorem map_sel_flatMap_pixelFrames (pb : Vector Pixel 42) (l : List (Fin 42)) :
    (l.flatMap fun i => pixelFrames pb[i]).map WireFrame.sel = List.replicate (3 * l.length) false := by
  induction l with
  | nil => rfl
  | cons i l ih =>
    rw [List.flatMap_cons, List.map_append, ih, List.length_cons, Nat.mul_succ, Nat.add_comm, List.replicate_add]
    rfl

/-- A slot sends its address frame, then data frames only. -/
theorem map_sel_slotFrames (pb : Vector Pixel 42) (mm : MappingMode) (s : Fin 9) :
    (slotFrames pb mm s).map WireFrame.sel = true :: List.replicate (3 * (slotMap mm s).length) false := by
  rw [slotFrames, List.map_cons, map_sel_flatMap_pixelFrames]
  rfl

/-- Whatever the buffer and the mode, the address frames are those at the slots' starts. -/
theorem map_sel_txBytes (pb : Vector Pixel 42) (mm : MappingMode) :
    (txBytes pb mm).map WireFrame.sel = (List.range 135).map fun n => decide (n ∈ slots.map slotStart) := by
  rw [txBytes, List.map_flatMap]
  simp only [map_sel_slotFrames]
  cases mm <;> decide

theorem countP_sel_slotFrames (pb : Vector Pixel 42) (mm : MappingMode) (s : Fin 9) :
    (slotFrames pb mm s).countP (fun f => f.sel) = 1 := by
  have hmap := List.countP_map (p := id) (f := WireFrame.sel) (l := slotFrames pb mm s)
  rw [map_sel_slotFrames] at hmap
  simpa [List.countP_replicate] using hmap.symm

theorem countP_sel_txBytes (pb : Vector Pixel 42) (mm : MappingMode) : (txBytes pb mm).countP (fun f => f.sel) = 9 := by
  simp only [txBytes, List.countP_flatMap, Function.comp_def, countP_sel_slotFrames]
  rfl

theorem countP_not_sel_txBytes (pb : Vector Pixel 42) (mm : MappingMode) :
    (txBytes pb mm).countP (fun f => !f.sel) = 42 * 3 := by
  have hsplit := List.length_eq_countP_add_countP (fun f : WireFrame => f.sel) (l := txBytes pb mm)
  simp only [length_txBytes, countP_sel_txBytes, Bool.not_eq_true, Bool.decide_eq_false] at hsplit
  omega

theorem sel_of_getElem?_txBytes {pb : Vector Pixel 42} {mm : MappingMode} {n : Nat} {f : WireFrame}
    (h : (txBytes pb mm)[n]? = some f) : f.sel = true ↔ n ∈ slots.map slotStart := by
  have hn : n < 135 := by simpa using (List.getElem?_eq_some_iff.mp h).1
  have hsel : ((txBytes pb mm).map WireFrame.sel)[n]? = some f.sel := by rw [List.getElem?_map, h]; rfl
  rw [map_sel_txBytes, List.getElem?_map, List.getElem?_range hn] at hsel
  rw [← Option.some.inj hsel, decide_eq_true_iff]

/-! ### A mirrored and a filled buffer (42_transmit.md R168, R169) -/

theorem getElem_mirrorBuffer (pb : Vector Pixel 42) (i : Fin 42) : (mirrorBuffer pb)[i] = pb[foldIndex i] := by
  refine (getElem_bufferOf _ i.val i.isLt).trans ?_
  unfold foldIndex
  split <;> rfl

theorem mirrorBuffer_of_symmetric {pb : Vector Pixel 42} (h : MirrorSymmetric pb) : mirrorBuffer pb = pb :=
  buffer_ext fun i => by
    rw [getElem_mirrorBuffer]
    unfold foldIndex
    split
    · rfl
    · exact (h i).symm

theorem txBytes_mirrored (pb : Vector Pixel 42) : txBytes pb .mirrored = txBytes (mirrorBuffer pb) .full := by
  have hslot : slotFrames pb .mirrored = slotFrames (mirrorBuffer pb) .full := by
    funext s
    simp only [slotFrames, slotMap_mirrored, List.flatMap_map, getElem_mirrorBuffer]
  rw [txBytes, hslot, txBytes]

/-- A slot of a buffer of one colour: its address, then one triple a pixel. -/
theorem slotFrames_bufferOf_const (colour : Pixel) (mm : MappingMode) (s : Fin 9) :
    slotFrames (bufferOf fun _ => colour) mm s
      = addressFrame s :: (List.replicate (if s.val = 4 then 2 else 5) (pixelFrames colour)).flatten := by
  have hpixel : ∀ i : Fin 42, (bufferOf fun _ => colour)[i] = colour := fun i => getElem_bufferOf _ i.val i.isLt
  simp only [slotFrames, hpixel, List.flatMap_def, List.map_const', length_slotMap]

/-! ### The line while a TX runs (42_transmit.md R162, R163) -/

theorem serOut_of_not_tx {s : State} (h : s.engine ≠ .tx) : s.serOut = true := if_neg fun hs => h hs.1

/-- Before its first start bit a TX leaves the line idle (log 23). -/
theorem serOut_of_waiting {s : State} (h : s.timer ≠ 0) : s.serOut = true := if_neg fun hs => h hs.2

/-- The bit-time a TX is in, from the cycles its line has been driven. -/
theorem Sending.cyclesSent_div {s : State} (h : Sending s) :
    s.cyclesSent / Config.bitPeriod = 11 * frameIndex s.seq.slot s.seq.item + s.seq.bitIdx.val := by
  rw [State.cyclesSent, Nat.mul_comm _ Config.bitPeriod, Nat.mul_add_div (Nat.zero_lt_of_lt h.baud), Nat.div_eq_of_lt h.baud,
    Nat.add_zero]

/-- The line of a TX `n` cycles after its first start bit carries bit `n / BIT_PERIOD` of the whole frame. -/
theorem Sending.serOut_eq {s : State} (h : Sending s) :
    s.serOut = lineLevel (txBytes s.pb s.txMode) (Config.txStartLatency + s.cyclesSent) := by
  have hbit := s.seq.bitIdx.isLt
  have hframe : (txBytes s.pb s.txMode).getD (frameIndex s.seq.slot s.seq.item) (dataFrame 0)
      = frameAt s.pb s.txMode s.seq.slot s.seq.item := by
    rw [List.getD_eq_getElem?_getD, getElem?_txBytes_frameIndex s.pb h.position, Option.getD_some]
  rw [State.serOut, if_pos ⟨h.engine, h.started⟩, h.shifting, lineLevel, if_neg (by omega)]
  simp only [Nat.add_sub_cancel_left, h.cyclesSent_div]
  rw [show (11 * frameIndex s.seq.slot s.seq.item + s.seq.bitIdx.val) / 11 = frameIndex s.seq.slot s.seq.item by omega,
    show (11 * frameIndex s.seq.slot s.seq.item + s.seq.bitIdx.val) % 11 = s.seq.bitIdx.val by omega, hframe]

/-- A TX goes on with the buffer and the mode its result has. -/
theorem pb_txMode_of_txResult_eq {s t : State} (h : s.txResult = t.txResult) :
    s.pb = t.pb ∧ s.txMode = t.txMode := by
  have hpb : s.txResult.pb = t.txResult.pb := by rw [h]
  have hmode : s.txResult.txMode = t.txResult.txMode := by rw [h]
  exact ⟨hpb, hmode⟩

section
variable {w : Word} {s : State} {mm : MappingMode} {ps : List Pins}

/-- An accepted TX before its first start bit. -/
theorem clockRun_tx_waiting (he : s.engine = .idle) (herr : s.err = false) (hw : decode w = .ok (.tx mm))
    (hps : NoReset ps) (hlt : ps.length < Config.txStartLatency) :
    clockRun (offerEdge w :: ps) s
      = .next { s.startOfTx w mm with timer := Config.txStartLatency - ps.length } := by
  have hwait := clockRun_waiting (s := { s.startOfTx w mm with timer := Config.txStartLatency }) hps hlt.le
  rw [clockRun_cons, clockEdge_offerEdge w he, andThen_next, acceptEdge_tx herr hw, hwait]

/-- An accepted TX from its first start bit on. -/
theorem clockRun_tx_sending (he : s.engine = .idle) (herr : s.err = false) (hw : decode w = .ok (.tx mm))
    (hps : NoReset ps) (hge : Config.txStartLatency ≤ ps.length)
    (hlt : ps.length < Config.txStartLatency + 1485 * Config.bitPeriod) :
    ∃ t, clockRun (offerEdge w :: ps) s = .next t ∧ Sending t ∧ Config.txStartLatency + t.cyclesSent = ps.length
      ∧ t.pb = s.pb ∧ t.txMode = mm := by
  obtain ⟨waiting, sending, rfl, hwaiting, hsending, hwaitLen, hsendLen⟩ := hps.cut hge
  have hstart := startOfTx_cyclesSent s w mm
  obtain ⟨t, hrun, ht, hcycles, hresult⟩ := clockRun_sending (startOfTx_sending s hw) hsending (by omega)
  obtain ⟨hpb, hmode⟩ := pb_txMode_of_txResult_eq hresult
  refine ⟨t, ?_, ht, by omega, hpb, hmode.trans (startOfTx_txMode s hw)⟩
  rw [← List.cons_append, clockRun_append, clockRun_to_startOfTx he herr hw hwaiting hwaitLen, andThen_next, hrun]

end

/-! ### The statements -/

/-- Settles O44: before the first start bit the line waits, and from it on `Sending` gives its level. -/
theorem txWaveform : Obligations.TxWaveform := by
  intro s w mm ps he herr hw hps hlt
  obtain hwait | hsend := Nat.lt_or_ge ps.length Config.txStartLatency
  · refine ⟨_, clockRun_tx_waiting he herr hw hps hwait, rfl, rfl, ?_⟩
    rw [lineLevel, if_pos hwait]
    exact serOut_of_waiting (Nat.sub_ne_zero_of_lt hwait)
  · obtain ⟨t, hrun, ht, hcycles, hpb, hmode⟩ := clockRun_tx_sending he herr hw hps hsend hlt
    refine ⟨t, hrun, by simp [State.cmdReady, ht.engine], by simp [State.txact, ht.engine], ?_⟩
    rw [ht.serOut_eq, hcycles, hpb, hmode]

/-- Settles O35: Full mode's list has no index twice and leaves none out, and Mirrored mode reads arm A only. -/
theorem slotMapCoverage : Obligations.SlotMapCoverage := by
  refine ⟨fun i => List.count_eq_one_of_mem nodup_slotMap_full (mem_slotMap_full i), by decide, rfl, rfl,
    fun pb pb' h => ?_⟩
  have hslot : slotFrames pb .mirrored = slotFrames pb' .mirrored :=
    funext fun s => slotFrames_congr fun i hi => h i (val_le_of_mem_slotMap_mirrored hi)
  rw [txBytes, hslot, txBytes]

/-- Settles O36: the nine positions are the slots' starts. -/
theorem txBytesAddressThenGreenBlueRed : Obligations.TxBytesAddressThenGreenBlueRed := by
  intro pb mm
  refine ⟨length_txBytes pb mm, fun s start hs => ?_⟩
  rw [← map_slotStart_slots, List.getElem?_map, getElem?_slots] at hs
  obtain rfl : slotStart s = start := Option.some.inj hs
  exact ⟨getElem?_txBytes_slotStart_add pb (n := 0) (slotLength_bounds mm s).1, fun k p hp =>
    ⟨getElem?_txBytes_pixel pb (j := 0) hp (by decide), getElem?_txBytes_pixel pb (j := 1) hp (by decide),
      getElem?_txBytes_pixel pb (j := 2) hp (by decide)⟩⟩

/-- Settles O37: the select bits of the sequence are the same for every buffer and mode. -/
theorem txFrameSize : Obligations.TxFrameSize := by
  intro pb mm
  refine ⟨fun s => (length_slotFrames pb mm s).trans (slotLength_eq mm s), length_txBytes pb mm,
    countP_sel_txBytes pb mm, countP_not_sel_txBytes pb mm, fun n f h => ?_⟩
  rw [← map_slotStart_slots]
  exact sel_of_getElem?_txBytes h

/-- Settles O41: both buffers hold the same pixel wherever the two slot maps look. -/
theorem mirroredFrameIsFullFrameOfTheMirror : Obligations.MirroredFrameIsFullFrameOfTheMirror := by
  refine ⟨fun pb j => getElem_bufferOf _ j.val j.isLt, mirrorIndex_val, txBytes_mirrored, fun pb h => ?_⟩
  rw [txBytes_mirrored, mirrorBuffer_of_symmetric h]

/-- Settles O42. -/
theorem txEndToEnd : Obligations.TxEndToEnd := by
  refine ⟨fun pb k j hk hj => ⟨?_, ?_⟩, fun pb => rfl, by decide, nodup_slotMap_full, fun colour mm s herr => ?_⟩
  · rw [tail_slotFrames, slotMap_mirrored_replay hk hj, tail_slotFrames]
  · rw [List.length_tail, length_slotFrames, slotLength_eq, if_neg (by omega)]
  · refine ⟨_, _, exec_fill colour herr, exec_tx (s := s.setBuffer _) mm herr, ?_⟩
    exact congrArg (s.wire ++ ·) (List.flatMap_congr fun x _ => slotFrames_bufferOf_const colour mm x)

/-- Settles O34. -/
theorem slotMapTable : Obligations.SlotMapTable := ⟨by decide, by decide⟩

/-- Settles O38. -/
theorem txAppendsOneFrame : Obligations.TxAppendsOneFrame := fun mm _ herr =>
  ⟨_, exec_tx mm herr, rfl, fun _ _ => rfl, rfl⟩

/-- Settles O39: each bit comes from one of the three fields placed in the vector. -/
theorem wireFrameLayout : Obligations.WireFrameLayout := by
  intro sel b
  refine ⟨by simp [frameBits], fun j hj => ?_, by simp [frameBits], by simp [frameBits], ?_⟩
  · interval_cases j <;> simp [frameBits]
  · have hsel := sel.toNat_lt
    have hb := b.isLt
    simp only [frameBits, BitVec.toNat_or, BitVec.toNat_shiftLeft, BitVec.toNat_setWidth, BitVec.toNat_ofBool,
      Nat.shiftLeft_eq]
    rw [Nat.mod_eq_of_lt (a := sel.toNat) (by omega), Nat.mod_eq_of_lt (a := b.toNat) (by omega),
      Nat.mod_eq_of_lt (a := sel.toNat * _) (by omega), Nat.mod_eq_of_lt (a := b.toNat * _) (by omega)]
    rfl

/-- Settles O40. -/
theorem wireFrameIsReadable : Obligations.WireFrameIsReadable := frameOfBits_frameBits

/-- Settles O43: a TX runs only with ERR = 0. -/
theorem lineIdlesHigh : Obligations.LineIdlesHigh := fun s =>
  ⟨serOut_of_not_tx, fun hlegal herr => serOut_of_not_tx fun htx => by
    have hclear := (entersTx_eq_some.mp (hlegal.tx htx).running).1
    rw [herr] at hclear
    cases hclear⟩

end Sys2Proof.Machine
end

section
/-! PROOFS. Exceptions (60_exceptions.md): fault entry, what clock edges without a reset do while ERR = 1, and that a legal
state never stops. The statements are settled at the end. -/

namespace Sys2Proof.Machine

/-! ### Fault entry (60_exceptions.md R202) -/

/-- With ERR = 0 a word that fails a check of the decoder raises the error of that check and does nothing else. -/
theorem runWord_of_decodeChecked_error {w : Word} {s : State} {e : ErrorCode} (herr : s.err = false)
    (hw : decodeChecked w = .error e) : runWord w s = .next (raiseError e s) := by
  obtain ⟨t, hrun, -⟩ := runWord_next w s
  obtain ⟨e', hw', rfl⟩ | ⟨⟨i, hw'⟩, -⟩ := runWord_error herr hrun
  · cases hw.symm.trans hw'
    exact hrun
  · cases hw.symm.trans hw'

/-! ### Clock edges in the fault state (60_exceptions.md R203) -/

section
variable {s : State}

/-- The end of EXEC while ERR = 1 makes the Engine IDLE, its word discarded. -/
theorem finishExec_of_faulted (herr : s.err = true) :
    finishExec s = .next { s with engine := .idle, timer := 0, draws := s.draws + 1 } :=
  finishExec_eq_next.mpr ⟨s, runWord_of_faulted s.cmd herr, rfl⟩

/-- A word accepted while ERR = 1 goes to EXEC, a TX too (10_state.md R30). -/
theorem acceptEdge_of_faulted (w : Word) (herr : s.err = true) :
    acceptEdge w s = s.withEngine .exec w (Config.execLatency s.err w) :=
  acceptEdge_exec (entersTx_eq_none.mpr (.inl herr))

/-- An edge of the fault state writes the Engine's own registers and the count of draws alone, and never enters TX. -/
theorem clockEdge_of_faulted {p : Pins} (hp : p.rst = false) (herr : s.err = true)
    (he : s.engine = .idle ∨ s.engine = .exec) :
    ∃ e c n d, clockEdge p s = .next { s with engine := e, cmd := c, timer := n, draws := d }
      ∧ (e = .idle ∨ e = .exec) := by
  obtain hidle | hexec := he
  · rw [clockEdge_idle hp hidle]
    split
    · rw [acceptEdge_of_faulted p.cmdData herr]
      exact ⟨_, _, _, _, rfl, .inr rfl⟩
    · exact ⟨_, _, _, _, rfl, .inl hidle⟩
  · rw [clockEdge_exec hp hexec]
    split
    · exact ⟨_, _, _, _, finishExec_of_faulted herr, .inl rfl⟩
    · exact ⟨_, _, _, _, rfl, .inr hexec⟩

/-- So does any number of edges without a reset. -/
theorem clockRun_of_faulted {ps : List Pins} (hps : NoReset ps) (herr : s.err = true)
    (he : s.engine = .idle ∨ s.engine = .exec) :
    ∃ e c n d, clockRun ps s = .next { s with engine := e, cmd := c, timer := n, draws := d }
      ∧ (e = .idle ∨ e = .exec) := by
  induction ps generalizing s with
  | nil => exact ⟨_, _, _, _, rfl, he⟩
  | cons p ps ih =>
    obtain ⟨e, c, n, d, hedge, he'⟩ := clockEdge_of_faulted hps.head herr he
    rw [clockRun_cons, hedge, andThen_next]
    exact ih hps.tail herr he'

end

/-! ### A legal state never stops -/

/-- A clock edge always answers. -/
theorem clockEdge_next (p : Pins) (s : State) : ∃ t, clockEdge p s = .next t := by
  cases hrst : p.rst with
  | true => exact ⟨_, clockEdge_reset hrst s⟩
  | false =>
    cases he : s.engine with
    | init => exact ⟨_, clockEdge_init hrst he⟩
    | idle => exact ⟨_, clockEdge_idle hrst he⟩
    | tx => exact ⟨_, clockEdge_tx hrst he⟩
    | exec =>
      rw [clockEdge_exec hrst he]
      split
      · obtain ⟨t, ht, -⟩ := finishExec_next s
        exact ⟨t, ht⟩
      · exact ⟨_, rfl⟩

/-- An action that needs `cmd_ready` answers if it answers in IDLE, since the wait does. -/
theorem whenReady_next (rest : List HostAction) (s : State) {act : State → Result} (h : ∀ u, ∃ t, act u = .next t) :
    ∃ t, whenReady rest s act = .next t := by
  unfold whenReady
  split
  · exact h _
  · obtain ⟨t, ht, -⟩ := runToIdle_ready s
    exact ⟨t, ht⟩

/-- Whatever the host does, the Engine answers. -/
theorem hostStep_next (s : State) : ∃ t, hostStep s = .next t := by
  unfold hostStep
  split
  · obtain ⟨t, ht, -⟩ := runToIdle_ready s
    exact ⟨t, ht⟩
  · exact clockEdge_next _ _
  · refine whenReady_next _ s fun u => ?_
    obtain ⟨t, ht, -⟩ := runWord_next _ u
    exact ⟨t, ht⟩
  · exact whenReady_next _ s fun u => ⟨_, rfl⟩

/-- No legal state holds a reserved ERR_CODE, so its step answers (93_implementation_defined.md section 3). -/
theorem Legal.step_next {s : State} (h : Legal s) : ∃ t, step s = .next t := by
  have hstuck : s.stuck = false := by simp [State.stuck, h.status.1]
  obtain ⟨t, ht⟩ := hostStep_next s
  exact ⟨t, by simp [step, hstuck, ht]⟩

theorem runsOn_zero (s : State) : RunsOn 0 s := ⟨s, rfl⟩

/-- A run whose first step answers goes on from that answer. -/
theorem run_of_step_next {M : Host.Core} {s t : M.State} (h : M.step s = .next t) (k : Nat) :
    M.run (k + 1) s = M.run k t := by
  simp only [Host.Core.run, h]

/-- One step that answers, then the rest. -/
theorem RunsOn.cons {k : Nat} {s t : State} (hstep : step s = .next t) (h : RunsOn k t) : RunsOn (k + 1) s := by
  obtain ⟨u, hu⟩ := h
  exact ⟨u, (run_of_step_next (M := Sys2Proof.core) hstep k).trans hu⟩

/-! ### The statements -/

/-- Settles O11: a word offered in IDLE is discarded, and edges write nothing but the Engine's own registers, outside TX. -/
theorem faultStateDiscardsUntilReset : Obligations.FaultStateDiscardsUntilReset := by
  refine ⟨fun s w rest he herr hcode hin => ?_, fun s ps herr he hps => ?_⟩
  · rw [step_command he hcode hin]
    exact runWord_of_faulted w herr
  · obtain ⟨e, c, n, d, hrun, he'⟩ := clockRun_of_faulted hps herr he
    refine ⟨_, hrun, herr, rfl, rfl, rfl, rfl, serOut_of_not_tx fun htx => ?_⟩
    obtain rfl | rfl := he' <;> cases htx

/-- Settles O10: the step runs the word, and the word raises its error. -/
theorem faultEntryChangesOnlyStatus : Obligations.FaultEntryChangesOnlyStatus := by
  intro s w rest e he herr hcode hin hw
  have hstep : step s = .next (raiseError e { s with inputs := rest }) :=
    (step_command he hcode hin).trans (runWord_of_decodeChecked_error herr hw)
  have hready : (raiseError e { s with inputs := rest }).cmdReady = true := by simp [State.cmdReady, he]
  refine ⟨_, hstep, rfl, hready, ?_, ?_, ?_, rfl⟩ <;> rintro rfl <;> rfl

/-- Settles O58, by induction on the number of steps: the step answers, and answers a legal state (O57). -/
theorem legalStatesRunOn : Obligations.LegalStatesRunOn := by
  intro k
  induction k with
  | zero => exact fun s _ => runsOn_zero s
  | succ k ih =>
    intro s hs
    obtain ⟨t, hstep⟩ := hs.step_next
    exact .cons hstep (ih t (legalKeptByEveryStep s t hs hstep))

end Sys2Proof.Machine
end

section
/-! PROOFS. Reset (70_reset_and_hazards.md): what a reset edge and a command cut by one leave, the frames a TX has sent by an
edge, INIT, and the way out of a reserved ERR_CODE. The statements are settled at the end. -/

namespace Sys2Proof.Machine

/-! ### A reset (70_reset_and_hazards.md R230, R231) -/

/-- A reset leaves the Engine in INIT, so not ready. -/
@[simp] theorem resetWith_cmdReady (sent : List WireFrame) (s : State) : (resetWith sent s).cmdReady = false := rfl

/-- STATUS in INIT after a reset is BUSY alone (10_state.md R35). -/
@[simp] theorem resetWith_status (sent : List WireFrame) (s : State) : (resetWith sent s).status = 0x0001 := by
  change statusWord true false false 0 = 0x0001
  decide

/-- A reset makes the line idle (70_reset_and_hazards.md R232). -/
@[simp] theorem resetWith_serOut (sent : List WireFrame) (s : State) : (resetWith sent s).serOut = true :=
  serOut_of_not_tx nofun

/-- A reset edge in a TX. -/
theorem resetEdge_of_tx {s : State} (h : s.engine = .tx) :
    resetEdge s = resetWith ((txBytes s.pb s.txMode).take s.framesSent) s := if_pos h

/-- A reset edge outside TX (log 8). -/
theorem resetEdge_of_not_tx {s : State} (h : s.engine ≠ .tx) : resetEdge s = resetWith [] s := if_neg h

/-- Every reset edge is a reset, one outside TX with an empty trace. -/
theorem resetEdge_eq_resetWith (s : State) :
    ∃ sent, resetEdge s = resetWith sent s ∧ (s.engine ≠ .tx → sent = []) := by
  by_cases h : s.engine = .tx
  · exact ⟨_, resetEdge_of_tx h, absurd h⟩
  · exact ⟨[], resetEdge_of_not_tx h, fun _ => rfl⟩

/-- A command cut by reset leaves a reset, whose trace is a first part of the frame of a TX and empty for any other command
(70_reset_and_hazards.md R230, R232). -/
theorem cutWord_eq_resetWith (w : Word) (s : State) :
    ∃ sent, cutWord w s = resetWith sent s ∧ (entersTx w s = none → sent = [])
      ∧ ∀ mm, entersTx w s = some mm → sent <+: txBytes s.pb mm := by
  unfold cutWord
  cases entersTx w s with
  | none => exact ⟨[], rfl, fun _ => rfl, nofun⟩
  | some mm =>
    refine ⟨_, rfl, nofun, fun mm' h => ?_⟩
    cases h
    exact List.take_prefix _ _

/-! ### INIT (70_reset_and_hazards.md R230) -/

/-- The edges of INIT count its cycles down. -/
theorem clockRun_resetWith_waiting {ps : List Pins} (sent : List WireFrame) (s : State) (hps : NoReset ps)
    (hle : ps.length ≤ Config.resetInitCycles) :
    clockRun ps (resetWith sent s)
      = .next { resetWith sent s with timer := Config.resetInitCycles - ps.length } :=
  clockRun_waiting hps hle

/-- One edge more ends INIT (log 10). -/
theorem clockRun_resetWith_to_idle {ps : List Pins} (sent : List WireFrame) (s : State) (hps : NoReset ps)
    (hlen : ps.length = Config.resetInitCycles + 1) :
    clockRun ps (resetWith sent s) = .next (finishInit (resetWith sent s)) :=
  clockRun_init_to_idle rfl hps hlen

/-- STATUS after INIT is 0 (10_state.md R35). -/
theorem finishInit_resetWith_status (sent : List WireFrame) (s : State) :
    (finishInit (resetWith sent s)).status = 0 := by
  change statusWord false false false 0 = 0
  decide

/-! ### The frames a TX has sent (70_reset_and_hazards.md R232) -/

/-- Before its first start bit a TX has sent no frame. -/
theorem framesSent_of_waiting {s : State} (h : s.timer ≠ 0) :
    s.framesSent = frameIndex s.seq.slot s.seq.item := by
  simp [State.framesSent, State.frameEnds, h]

/-- A frame ends in the last cycle of its stop bit. -/
theorem Sending.frameEnds_iff {s : State} (h : Sending s) :
    s.frameEnds = true ↔ s.seq.bitIdx.val = 10 ∧ s.seq.baudCnt + 1 = Config.bitPeriod := by
  have hbaud := h.baud
  have hlast : Config.bitPeriod ≤ s.seq.baudCnt + 1 ↔ s.seq.baudCnt + 1 = Config.bitPeriod := by omega
  simp [State.frameEnds, h.started, Fin.ext_iff, hlast]

/-- How many bit-times the coming edge completes: one more than before it if it ends the bit on the line. -/
theorem Sending.cyclesSent_succ_div {s : State} (h : Sending s) :
    (s.cyclesSent + 1) / Config.bitPeriod
      = 11 * frameIndex s.seq.slot s.seq.item + s.seq.bitIdx.val
        + if s.seq.baudCnt + 1 = Config.bitPeriod then 1 else 0 := by
  have hpos : 0 < Config.bitPeriod := Nat.zero_lt_of_lt h.baud
  split
  · next hend => rw [cyclesSent_succ_of_bitEnd hend, Nat.mul_div_cancel _ hpos]
  · next hend =>
    have hlt : s.seq.baudCnt + 1 < Config.bitPeriod := Nat.lt_of_le_of_ne h.baud hend
    rw [State.cyclesSent, Nat.add_assoc, Nat.mul_comm _ Config.bitPeriod, Nat.mul_add_div hpos, Nat.div_eq_of_lt hlt]

/-- The whole frames of a TX by the coming edge: one for every 11 bit-times that edge completes (log 9). -/
theorem Sending.framesSent_eq {s : State} (h : Sending s) :
    s.framesSent = (s.cyclesSent + 1) / (11 * Config.bitPeriod) := by
  have hbit := s.seq.bitIdx.isLt
  rw [Nat.mul_comm 11, ← Nat.div_div_eq_div_mul, h.cyclesSent_succ_div]
  simp only [State.framesSent, h.frameEnds_iff]
  split <;> split <;> omega

/-- The reset edge after the acceptance of a TX and the edges `ps` (logs 8, 9, 11). -/
theorem clockRun_tx_resetEdge {w : Word} {s : State} {mm : MappingMode} {ps : List Pins} (he : s.engine = .idle)
    (herr : s.err = false) (hw : decode w = .ok (.tx mm)) (hps : NoReset ps)
    (hlt : ps.length < Config.txStartLatency + 1485 * Config.bitPeriod) :
    ∃ t, clockRun (offerEdge w :: ps) s = .next t
      ∧ resetEdge t = resetWith
          ((txBytes s.pb mm).take ((ps.length + 1 - Config.txStartLatency) / (11 * Config.bitPeriod))) t := by
  obtain hwait | hsend := Nat.lt_or_ge ps.length Config.txStartLatency
  · refine ⟨_, clockRun_tx_waiting he herr hw hps hwait, ?_⟩
    rw [resetEdge_of_tx rfl, framesSent_of_waiting (Nat.sub_ne_zero_of_lt hwait), Nat.sub_eq_zero_of_le hwait,
      Nat.zero_div]
    rfl
  · obtain ⟨t, hrun, ht, hcycles, hpb, hmode⟩ := clockRun_tx_sending he herr hw hps hsend hlt
    have hcount : ps.length + 1 - Config.txStartLatency = t.cyclesSent + 1 := by omega
    exact ⟨t, hrun, by rw [resetEdge_of_tx ht.engine, ht.framesSent_eq, hpb, hmode, hcount]⟩

/-! ### Steps -/

/-- With the Engine IDLE and no reserved ERR_CODE a step runs the word offered first into the reset that cuts it. -/
theorem step_cutCommand {s : State} {w : Word} {rest : List HostAction} (he : s.engine = .idle)
    (hcode : s.errCode.toNat ≤ 3) (hin : s.inputs = .cutCommand w :: rest) :
    step s = .next (cutWord w { s with inputs := rest }) := by
  have hstuck : s.stuck = false := by simp [State.stuck, hcode]
  simp [step, hstuck, hostStep, hin, whenReady, he]

theorem exists_edge_of_nextIsReset {s : State} (h : nextIsReset s = true) :
    ∃ p rest, s.inputs = .edge p :: rest ∧ p.rst = true := by
  unfold nextIsReset at h
  split at h
  · next p rest hin => exact ⟨p, rest, hin, h⟩
  · cases h

/-- A step whose action is a reset edge resets the machine, out of a reserved ERR_CODE too (log 13). -/
theorem step_of_nextIsReset {s : State} (h : nextIsReset s = true) : ∃ sent t, step s = .next (resetWith sent t) := by
  have hstuck : s.stuck = false := by simp [State.stuck, h]
  obtain ⟨p, rest, hin, hrst⟩ := exists_edge_of_nextIsReset h
  obtain ⟨sent, hreset, -⟩ := resetEdge_eq_resetWith { s with inputs := rest }
  refine ⟨sent, { s with inputs := rest }, ?_⟩
  simp [step, hstuck, hostStep, hin, clockEdge_reset hrst, hreset]

/-! ### The statements -/

/-- Settles O53: the edge is a reset, whose INIT lasts its wait. -/
theorem resetFromAnyState : Obligations.ResetFromAnyState := by
  intro p s hrst
  obtain ⟨sent, hreset, hsent⟩ := resetEdge_eq_resetWith s
  refine ⟨resetWith sent s, (clockEdge_reset hrst s).trans (congrArg _ hreset), rfl, resetWith_status sent s,
    resetWith_cmdReady sent s, rfl, rfl, rfl, resetWith_serOut sent s, hsent,
    fun ps hps => ⟨fun hle => ?_, fun hlen => ?_⟩⟩
  · exact ⟨_, clockRun_resetWith_waiting sent s hps hle, rfl⟩
  · exact ⟨_, clockRun_resetWith_to_idle sent s hps hlen, rfl, finishInit_resetWith_status sent s, rfl,
      pixel_finishInit _⟩

/-- Settles O54: the reset keeps the frames whose 11 bit-times are over. -/
theorem resetCutsTxAfterWholeFrames : Obligations.ResetCutsTxAfterWholeFrames := by
  intro s w mm ps p he herr hw hps hlt hrst
  obtain ⟨t, hrun, hreset⟩ := clockRun_tx_resetEdge he herr hw hps hlt
  exact ⟨t, _, hrun, (clockEdge_reset hrst t).trans (congrArg _ hreset), resetWith_serOut _ t,
    resetWith_cmdReady _ t, rfl⟩

/-- Settles O55: the step runs the word into a reset. -/
theorem cutCommandLeavesAFirstPart : Obligations.CutCommandLeavesAFirstPart := by
  intro s w rest he hcode hin
  obtain ⟨sent, hcut, hnone, htx⟩ := cutWord_eq_resetWith w { s with inputs := rest }
  exact ⟨_, (step_cutCommand he hcode hin).trans (congrArg _ hcut), rfl, rfl, rfl, rfl, resetWith_serOut sent _, rfl, hnone,
    htx⟩

/-- Settles O59: `step` asks `stuck` before it takes an action, and with a reset edge next no state is stuck. -/
theorem reservedErrCodeIsStuck : Obligations.ReservedErrCodeIsStuck := by
  intro s hcode
  refine ⟨fun hnext => ?_, fun hnext => ?_⟩
  · have hstuck : s.stuck = true := by simp [State.stuck, hcode, hnext]
    simp [step, hstuck]
  · obtain ⟨sent, t, hstep⟩ := step_of_nextIsReset hnext
    exact ⟨_, hstep, rfl, rfl⟩

end Sys2Proof.Machine
end

section
/-! PROOFS. The words of the spec's encoding vectors (95_test_vectors.md section 2.1), read through the layouts of
30_encoding.md R71 and R72: a word decodes to an instruction exactly when it is that instruction's encoding. -/

namespace Sys2Proof.Machine

/-- Decoding and encoding are the same relation between words and instructions (O1 and O2). -/
theorem decode_eq_ok_iff_encode_eq {w : Word} {i : Instr} : decode w = .ok i ↔ encode i = w :=
  ⟨encodeInvertsDecode w i, fun h => h ▸ decodeInvertsEncode i⟩

/-- Settles O4: each of the 18 words is the encoding of its instruction. -/
theorem specWordsDecode : Obligations.SpecWordsDecode := by
  simp only [Obligations.SpecWordsDecode, decode_eq_ok_iff_encode_eq]
  decide

end Sys2Proof.Machine
end
